-- ==== Sys2Proof/Word.lean ====
section
/-! DEFINITION. The word types of the CTU256 and their plainest arithmetic (R9, R11 of 00_scope.md). -/

namespace Sys2Proof

/-- One byte of data memory (R61). -/
abbrev Byte := BitVec 8

/-- A 32-bit word: an instruction (R90), a control register (R37), one word of a value (R22). -/
abbrev Word := BitVec 32

/-- A FixedWidthUint: an unsigned integer modulo 2^256 (R21). -/
abbrev Value := BitVec 256

/-- A value register number, U0 to U7: every 3-bit field value names a register (R95). -/
abbrev UReg := Fin 8

/-- A predicate register number, E0 to E3: every 2-bit field value names a register (R95). -/
abbrev EReg := Fin 4

end Sys2Proof
end

