-- ==== Sys2Proof/Config.lean ====
section
/-! DEFINITION. What an instance of the hardware fixes (R9, R10 of 00_scope.md), and the values the spec leaves
open, as constants without a body (93_implementation_defined.md, S6, S10 and U5). -/

namespace Sys2Proof

/-- The parameters of one CTU256 instance. They are fixed at build time and never change (R10); State holds them,
so that a statement about every state is a statement about every instance. -/
structure Config where
  /-- IMEM_LOG2, 4 to 10 (R9). -/
  imemLog2 : Nat
  /-- DMEM_SLOTS_LOG2, 0 to 7 (R9). -/
  dmemSlotsLog2 : Nat
  /-- RECIP_CHECK: whether a violated RECIP precondition faults (R153). -/
  recipCheck : Bool
  /-- The host address BASE in units of 16 KiB, so that BASE is 16 KiB aligned (R9, R36; OPEN in D17). -/
  baseBlock : Nat
deriving DecidableEq, Repr

/-- The default instance of R9: IMEM_LOG2 = 10, DMEM_SLOTS_LOG2 = 5, RECIP_CHECK = 1. BASE has no default in the
spec: block 0 is a DESIGN CHOICE (log 5). -/
def Config.standard : Config :=
  { imemLog2 := 10, dmemSlotsLog2 := 5, recipCheck := true, baseBlock := 0 }

/-- FREE VALUE. The byte that DMEM address `a` holds after power-on number `n`, until it is written (R80, S6; log 1, 2). -/
opaque Config.dmemInit (n a : Nat) : Byte

/-- FREE VALUE. The word that IMEM index `i` holds after power-on number `n`, until it is written (R80, S6; log 1, 2). -/
opaque Config.imemInit (n i : Nat) : Word

/-- FREE VALUE. The `n`-th `draw()`: what RECIP writes where a precondition fails and RECIP_CHECK = 0 (R153, U5; log 6). -/
opaque Config.draw (n : Nat) : Value

/-- FREE VALUE. The `n`-th choice among the indices a run has reached (R45, S10; log 7). -/
opaque Config.drawIndex (n : Nat) : Nat

end Sys2Proof
end

