-- ==== Sys2Proof/Machine/State.lean ====
section
/-! DEFINITION. The state of the machine: everything R20 of 10_state.md gives the unit, the parameters of the instance,
and the model's own fields for the host and for free values. All of it is plain data. -/

namespace Sys2Proof.Machine

/-- The run state (R33). STATUS.BUSY, DONE and FAULT are views of it. -/
inductive RunState where
  | idle
  | running
  | halted
  | faulted
deriving DecidableEq, Repr

/-- The fault causes (R211). Codes 7 to 15 are never written (S4), so they have no constructor. -/
inductive FaultCause where
  /-- No fault since the last START or reset. -/
  | noFault
  /-- Reserved OP, nonzero must-be-zero field or reserved FN. -/
  | illegal
  /-- UA = UB in ADD or SUB. -/
  | aliased
  /-- A value register read with V = 0. -/
  | uninit
  /-- SLOT not below DMEM_SLOTS. -/
  | dmemRange
  /-- A RECIP precondition fails and RECIP_CHECK = 1. -/
  | recipPrecond
  /-- Fetch with PC = IMEM_WORDS. -/
  | pcRange
deriving DecidableEq, Repr

/-- What the host does in one step (R230, R240; log 8). Addresses are host byte addresses, `size` is in bytes. -/
inductive HostAct where
  /-- No access: the step is the sequencer's. -/
  | idle
  /-- A read of `size` bytes at `addr`. -/
  | read (addr size : Nat)
  /-- A write of `size` bytes at `addr`; only 4-byte accesses have a meaning (R39), so the data is one word. -/
  | write (addr size : Nat) (data : Word)
  /-- The unit's reset input is asserted (R240). -/
  | hardReset
deriving DecidableEq, Repr

/-- Memory contents written since power-on, as (address, contents) pairs with strictly rising addresses. An unlisted
address holds nothing written: what it reads as is `State.dmemByte` and `State.imemWord` of Machine/Ops.lean (log 1).
With `w = 8` this is a list of `Host.Cell`; IMEM is addressed by 32-bit word (R60), so its cells are words (log 16). -/
abbrev Memory (w : Nat) := List (Nat × BitVec w)

/-- The state of one CTU256 with its host. -/
structure State where
  /-- The parameters of the instance (R9, R10, R41). No step changes them. -/
  cfg : Config
  /-- U0 to U7 (R21). -/
  u : Vector Value 8
  /-- V0 to V7: whether a value register has been written since reset (R23). -/
  v : Vector Bool 8
  /-- E1 (R25). E0 is hard-wired and not stored (R26). -/
  e1 : Bool
  /-- E2 (R25). -/
  e2 : Bool
  /-- E3 (R25). -/
  e3 : Bool
  /-- PC, an instruction-word index in 0 .. IMEM_WORDS (R30). -/
  pc : Nat
  /-- The run state (R33). -/
  run : RunState
  /-- CTRL.IRQ_EN (R42). -/
  irqEn : Bool
  /-- START_PC, an index below IMEM_WORDS (R44). -/
  startPc : Nat
  /-- FAULT_CAUSE (R46). -/
  faultCause : FaultCause
  /-- FAULT_PC (R47). -/
  faultPc : Nat
  /-- FAULT_INSN (R48). -/
  faultInsn : Word
  /-- IMEM: the instruction words written since power-on (R65). -/
  imem : Memory 32
  /-- DMEM: the bytes written since power-on (R61). -/
  dmem : Memory 8
  /-- The MODEL's own: how many free values have been drawn (log 6). -/
  draws : Nat
  /-- The MODEL's own: how many hardware resets have happened (log 2). -/
  powerOns : Nat
  /-- The MODEL's own: what the host does in the coming steps; after the list, nothing (log 8). -/
  host : List HostAct
  /-- The MODEL's own: the data that the last host read returned (log 9). -/
  hostData : Word
deriving DecidableEq, Repr

/-- Why the machine stops with a fault. The unit's own faults (R211) are no stop: they are next states (R215). -/
inductive Fault where
  /-- The host script holds an access to an address outside the 16 KiB at BASE, where this unit has nothing (R36, R71).
  Raised by the host port. Safe: no claim about the unit follows from a stop (log 12). -/
  | hostAddressOutside
deriving DecidableEq, Repr

/-- Why the model gives a step no meaning. -/
inductive Refusal where
  /-- An instruction without a meaning yet. Raised by exec's arms only; safe. -/
  | notModelled (mnemonic : String)
  /-- The host script holds an access that is not 32-bit and 4-byte aligned: "the host step does not exist" (R68, S9).
  Raised by the host port. Safe (log 14). -/
  | hostAccessUnsupported
deriving DecidableEq, Repr

/-- What a step of this machine answers. -/
abbrev Result := Host.Outcome State Fault Refusal

/-- The state after hardware reset of an instance with parameters `c` (R51, R240). U holds zeros, which nothing can
read since every V is 0 (DESIGN CHOICE, log 3). -/
def State.resetOf (c : Config) : State :=
  { cfg := c
    u := Vector.replicate 8 0
    v := Vector.replicate 8 false
    e1 := false
    e2 := false
    e3 := false
    pc := 0
    run := .idle
    irqEn := false
    startPc := 0
    faultCause := .noFault
    faultPc := 0
    faultInsn := 0
    imem := []
    dmem := []
    draws := 0
    powerOns := 0
    host := []
    hostData := 0 }

/-- The machine right after reset: the default instance of R9 (log 4). -/
def State.reset : State := State.resetOf Config.standard

end Sys2Proof.Machine
end

