-- ==== Sys2Proof/Machine/Flags.lean ====
section
/-! DEFINITION. The one-bit results that go to a predicate register (R27), each from the exact integers (R12). There
are no other flags (R28). -/

namespace Sys2Proof.Machine

/-- The carry of `a + en * b`: floor(s / 2^256) of the exact sum (R130). A disabled ADD has carry 0 (C1). -/
def carryOut (en : Bool) (a b : Value) : Bool := decide (2 ^ 256 ≤ a.toNat + en.toNat * b.toNat)

/-- The borrow of `a - en * b`: whether the exact difference is negative (R132). A disabled SUB has borrow 0 (C1). -/
def borrowOut (en : Bool) (a b : Value) : Bool := decide (a.toNat < en.toNat * b.toNat)

/-- Bit 255, which SHL1 shifts out (R140). -/
def topBit (a : Value) : Bool := a.getLsbD 255

/-- Bit 0, the parity that PAR writes (R180). -/
def parityBit (a : Value) : Bool := decide (a.toNat % 2 = 1)

/-- `[a = b]` (R170). -/
def flagEq (a b : Value) : Bool := decide (a = b)
/-- `[a != b]` (R171). -/
def flagNe (a b : Value) : Bool := !decide (a = b)
/-- `[a < b]`, unsigned (R172). -/
def flagLt (a b : Value) : Bool := decide (a.toNat < b.toNat)
/-- `[a <= b]`, unsigned (R173). -/
def flagLe (a b : Value) : Bool := decide (a.toNat ≤ b.toNat)
/-- `[a > b]`, unsigned (R174). -/
def flagGt (a b : Value) : Bool := decide (b.toNat < a.toNat)
/-- `[a >= b]`, unsigned (R175). -/
def flagGe (a b : Value) : Bool := decide (b.toNat ≤ a.toNat)

end Sys2Proof.Machine
end

