-- ==== Sys2Proof/Syntax.lean ====
section
/-! DEFINITION. The instructions: one constructor for each of the 22 rows of spec/opcode_table.json (R94 of
30_encoding.md), with the fields that the row uses. -/

namespace Sys2Proof

/-- A CTU256 instruction. `ua` and `ub` are the value registers of fields UA and UB, `pe` the enable predicate,
`pd` the destination predicate, `pa` and `pb` the source predicates, `slot` the slot number of format M. -/
inductive Instr where
  /-- REPLACE Ua, Ub, Ee (R120). -/
  | replace (ua ub : UReg) (pe : EReg)
  /-- SWAP Ua, Ub, Ee (R121). -/
  | swap (ua ub : UReg) (pe : EReg)
  /-- ADD Ua, Ub, Ee -> Ed (R130). -/
  | add (ua ub : UReg) (pe pd : EReg)
  /-- SUB Ua, Ub, Ee -> Ed (R132). -/
  | sub (ua ub : UReg) (pe pd : EReg)
  /-- SHL1 Ua -> Ed (R140). -/
  | shl1 (ua : UReg) (pd : EReg)
  /-- SHR1 Ua, Ee (R141). -/
  | shr1 (ua : UReg) (pe : EReg)
  /-- RECIP Ua, Ub (R150). -/
  | recip (ua ub : UReg)
  /-- CMP.EQ Ua, Ub -> Ed (R170). -/
  | cmpEq (ua ub : UReg) (pd : EReg)
  /-- CMP.NE Ua, Ub -> Ed (R171). -/
  | cmpNe (ua ub : UReg) (pd : EReg)
  /-- CMP.LT Ua, Ub -> Ed (R172). -/
  | cmpLt (ua ub : UReg) (pd : EReg)
  /-- CMP.LE Ua, Ub -> Ed (R173). -/
  | cmpLe (ua ub : UReg) (pd : EReg)
  /-- CMP.GT Ua, Ub -> Ed (R174). -/
  | cmpGt (ua ub : UReg) (pd : EReg)
  /-- CMP.GE Ua, Ub -> Ed (R175). -/
  | cmpGe (ua ub : UReg) (pd : EReg)
  /-- PAR Ua -> Ed (R180). -/
  | par (ua : UReg) (pd : EReg)
  /-- PAND Ea, Eb -> Ed (R181). -/
  | pand (pd pa pb : EReg)
  /-- POR Ea, Eb -> Ed (R182). -/
  | por (pd pa pb : EReg)
  /-- PXOR Ea, Eb -> Ed (R183). -/
  | pxor (pd pa pb : EReg)
  /-- LDC.ZERO Ua (R194). -/
  | ldcZero (ua : UReg)
  /-- LDC.ONE Ua (R195). -/
  | ldcOne (ua : UReg)
  /-- LDBE Ua, s (R190). The slot is a number (R97), not a word of bits. -/
  | ldbe (ua : UReg) (slot : Nat)
  /-- STBE Ua, s (R191). -/
  | stbe (ua : UReg) (slot : Nat)
  /-- HALT (R203). -/
  | halt
deriving DecidableEq, Repr

end Sys2Proof
end

