-- ==== Sys2Proof/WellFormed.lean ====
section
/-! DEFINITION. Which instruction terms have an encoding, and which parameters an instance may have. Register fields
need no check: every value of a register field names a register (R95), and their types hold exactly those. -/

namespace Sys2Proof

/-- SLOT is an unsigned 16-bit number (R97); every other field is in range by its type. -/
def Instr.wf : Instr → Bool
  | .replace _ _ _ => true
  | .swap _ _ _ => true
  | .add _ _ _ _ => true
  | .sub _ _ _ _ => true
  | .shl1 _ _ => true
  | .shr1 _ _ => true
  | .recip _ _ => true
  | .cmpEq _ _ _ => true
  | .cmpNe _ _ _ => true
  | .cmpLt _ _ _ => true
  | .cmpLe _ _ _ => true
  | .cmpGt _ _ _ => true
  | .cmpGe _ _ _ => true
  | .par _ _ => true
  | .pand _ _ _ => true
  | .por _ _ _ => true
  | .pxor _ _ _ => true
  | .ldcZero _ => true
  | .ldcOne _ => true
  | .ldbe _ slot => decide (slot < 65536)
  | .stbe _ slot => decide (slot < 65536)
  | .halt => true

/-- The parameter ranges of R9: IMEM_LOG2 is 4 to 10, DMEM_SLOTS_LOG2 is 0 to 7. -/
def Config.wf (c : Config) : Bool :=
  decide (4 ≤ c.imemLog2) && decide (c.imemLog2 ≤ 10) && decide (c.dmemSlotsLog2 ≤ 7)

end Sys2Proof
end

