-- ==== Sys2Proof/Decode.lean ====
section
/-! DEFINITION. Decoding and encoding (30_encoding.md, R90 to R106). The decoder is the one R106 describes: find the
row of the opcode table whose match and mask the word fits, and read the row's fields from the word. -/

namespace Sys2Proof

/-- Why a word is no instruction (R99 to R101). The unit raises one cause, ILLEGAL, for all three; the names are the
model's own (log 21). -/
inductive Illegal where
  /-- OP is 0x00 or 0x0E to 0x3E (R99). -/
  | reservedOp
  /-- FN is one that R96 reserves for this OP (R101). -/
  | reservedFn
  /-- A field that R94 marks 0 is not 0 (R100). -/
  | fieldNotZero
deriving DecidableEq, Repr

/-! ### The fields of a word (R91, R92) -/

/-- OP, bits 31:26. -/
def fieldOP (w : Word) : Nat := (w.extractLsb' 26 6).toNat
/-- UA, bits 25:23. -/
def fieldUA (w : Word) : UReg := Fin.ofNat 8 (w.extractLsb' 23 3).toNat
/-- UB, bits 22:20. -/
def fieldUB (w : Word) : UReg := Fin.ofNat 8 (w.extractLsb' 20 3).toNat
/-- PE, bits 19:18. -/
def fieldPE (w : Word) : EReg := Fin.ofNat 4 (w.extractLsb' 18 2).toNat
/-- PD, bits 17:16. -/
def fieldPD (w : Word) : EReg := Fin.ofNat 4 (w.extractLsb' 16 2).toNat
/-- PA, bits 15:14. -/
def fieldPA (w : Word) : EReg := Fin.ofNat 4 (w.extractLsb' 14 2).toNat
/-- PB, bits 13:12. -/
def fieldPB (w : Word) : EReg := Fin.ofNat 4 (w.extractLsb' 12 2).toNat
/-- FN, bits 3:0. -/
def fieldFN (w : Word) : Nat := (w.extractLsb' 0 4).toNat
/-- SLOT, bits 15:0, zero-extended (R97). -/
def fieldSLOT (w : Word) : Nat := (w.extractLsb' 0 16).toNat

/-! ### The opcode table (R94, spec/opcode_table.json) -/

/-- A row of the opcode table: the mnemonic, the fixed bits, which bits are fixed, and the instruction read from a
word that fits. -/
structure Row where
  mnemonic : String
  pattern : Word
  mask : Word
  build : Word → Instr

/-- A word is the row's instruction exactly when `w & mask = match` (R94). -/
def Row.fits (r : Row) (w : Word) : Bool := w &&& r.mask == r.pattern

/-- The 22 rows of R94. -/
def opcodeTable : List Row :=
  [ ⟨"REPLACE",  0x04000000, 0xFC03FFFF, fun w => .replace (fieldUA w) (fieldUB w) (fieldPE w)⟩,
    ⟨"SWAP",     0x08000000, 0xFC03FFFF, fun w => .swap (fieldUA w) (fieldUB w) (fieldPE w)⟩,
    ⟨"ADD",      0x0C000000, 0xFC00FFFF, fun w => .add (fieldUA w) (fieldUB w) (fieldPE w) (fieldPD w)⟩,
    ⟨"SUB",      0x10000000, 0xFC00FFFF, fun w => .sub (fieldUA w) (fieldUB w) (fieldPE w) (fieldPD w)⟩,
    ⟨"SHL1",     0x14000000, 0xFC7CFFFF, fun w => .shl1 (fieldUA w) (fieldPD w)⟩,
    ⟨"SHR1",     0x18000000, 0xFC73FFFF, fun w => .shr1 (fieldUA w) (fieldPE w)⟩,
    ⟨"RECIP",    0x1C000000, 0xFC0FFFFF, fun w => .recip (fieldUA w) (fieldUB w)⟩,
    ⟨"CMP.EQ",   0x20000000, 0xFC0CFFFF, fun w => .cmpEq (fieldUA w) (fieldUB w) (fieldPD w)⟩,
    ⟨"CMP.NE",   0x20000001, 0xFC0CFFFF, fun w => .cmpNe (fieldUA w) (fieldUB w) (fieldPD w)⟩,
    ⟨"CMP.LT",   0x20000002, 0xFC0CFFFF, fun w => .cmpLt (fieldUA w) (fieldUB w) (fieldPD w)⟩,
    ⟨"CMP.LE",   0x20000003, 0xFC0CFFFF, fun w => .cmpLe (fieldUA w) (fieldUB w) (fieldPD w)⟩,
    ⟨"CMP.GT",   0x20000004, 0xFC0CFFFF, fun w => .cmpGt (fieldUA w) (fieldUB w) (fieldPD w)⟩,
    ⟨"CMP.GE",   0x20000005, 0xFC0CFFFF, fun w => .cmpGe (fieldUA w) (fieldUB w) (fieldPD w)⟩,
    ⟨"PAR",      0x24000000, 0xFC7CFFFF, fun w => .par (fieldUA w) (fieldPD w)⟩,
    ⟨"PAND",     0x28000000, 0xFFFC0FFF, fun w => .pand (fieldPD w) (fieldPA w) (fieldPB w)⟩,
    ⟨"POR",      0x28000001, 0xFFFC0FFF, fun w => .por (fieldPD w) (fieldPA w) (fieldPB w)⟩,
    ⟨"PXOR",     0x28000002, 0xFFFC0FFF, fun w => .pxor (fieldPD w) (fieldPA w) (fieldPB w)⟩,
    ⟨"LDC.ZERO", 0x2C000000, 0xFC7FFFFF, fun w => .ldcZero (fieldUA w)⟩,
    ⟨"LDC.ONE",  0x2C000001, 0xFC7FFFFF, fun w => .ldcOne (fieldUA w)⟩,
    ⟨"LDBE",     0x30000000, 0xFC7F0000, fun w => .ldbe (fieldUA w) (fieldSLOT w)⟩,
    ⟨"STBE",     0x34000000, 0xFC7F0000, fun w => .stbe (fieldUA w) (fieldSLOT w)⟩,
    ⟨"HALT",     0xFC000000, 0xFFFFFFFF, fun _ => .halt⟩ ]

/-! ### Decoding -/

/-- OP values that R93 does not define. -/
def reservedOp (op : Nat) : Bool := op == 0x00 || (decide (0x0E ≤ op) && decide (op ≤ 0x3E))

/-- FN values that R96 reserves for a defined OP. Format M (OP 0x0C and 0x0D) has no FN. -/
def reservedFn (op fn : Nat) : Bool :=
  if op == 0x08 then decide (6 ≤ fn)
  else if op == 0x0A then decide (3 ≤ fn)
  else if op == 0x0B then decide (2 ≤ fn)
  else if op == 0x0C || op == 0x0D then false
  else fn != 0

/-- Which of R99, R101 and R100 makes a word illegal, for a word that fits no row. -/
def illegalReason (w : Word) : Illegal :=
  if reservedOp (fieldOP w) then .reservedOp
  else if reservedFn (fieldOP w) (fieldFN w) then .reservedFn
  else .fieldNotZero

/-- Every 32-bit word decodes to exactly one instruction with its fields, or is ILLEGAL (R106). -/
def decode (w : Word) : Except Illegal Instr :=
  match opcodeTable.find? (·.fits w) with
  | some r => .ok (r.build w)
  | none => .error (illegalReason w)

/-- The host's question: the instruction that `decode` reads from a table row's bits. An instruction is one 32-bit
word, fetched whole, with no byte order (R66, R90). -/
def decodeTableWord (nbits w : Nat) : Option Instr :=
  match decode (BitVec.ofNat 32 (w % 2 ^ nbits)) with
  | .ok i => some i
  | .error _ => none

/-! ### Encoding -/

/-- `OP<<26 | UA<<23 | UB<<20 | PE<<18 | PD<<16 | PA<<14 | PB<<12 | FN` (R91). -/
def formatR (op : Nat) (ua ub : UReg) (pe pd pa pb : EReg) (fn : Nat) : Word :=
  (BitVec.ofNat 32 op <<< 26) ||| (BitVec.ofNat 32 ua.val <<< 23) ||| (BitVec.ofNat 32 ub.val <<< 20) |||
  (BitVec.ofNat 32 pe.val <<< 18) ||| (BitVec.ofNat 32 pd.val <<< 16) ||| (BitVec.ofNat 32 pa.val <<< 14) |||
  (BitVec.ofNat 32 pb.val <<< 12) ||| BitVec.ofNat 32 fn

/-- `OP<<26 | UA<<23 | SLOT` (R92). -/
def formatM (op : Nat) (ua : UReg) (slot : Nat) : Word :=
  (BitVec.ofNat 32 op <<< 26) ||| (BitVec.ofNat 32 ua.val <<< 23) ||| (BitVec.ofNat 16 slot).setWidth 32

/-- The word of a well-formed instruction (R91 to R96). -/
def encode : Instr → Word
  | .replace ua ub pe => formatR 0x01 ua ub pe 0 0 0 0
  | .swap ua ub pe => formatR 0x02 ua ub pe 0 0 0 0
  | .add ua ub pe pd => formatR 0x03 ua ub pe pd 0 0 0
  | .sub ua ub pe pd => formatR 0x04 ua ub pe pd 0 0 0
  | .shl1 ua pd => formatR 0x05 ua 0 0 pd 0 0 0
  | .shr1 ua pe => formatR 0x06 ua 0 pe 0 0 0 0
  | .recip ua ub => formatR 0x07 ua ub 0 0 0 0 0
  | .cmpEq ua ub pd => formatR 0x08 ua ub 0 pd 0 0 0
  | .cmpNe ua ub pd => formatR 0x08 ua ub 0 pd 0 0 1
  | .cmpLt ua ub pd => formatR 0x08 ua ub 0 pd 0 0 2
  | .cmpLe ua ub pd => formatR 0x08 ua ub 0 pd 0 0 3
  | .cmpGt ua ub pd => formatR 0x08 ua ub 0 pd 0 0 4
  | .cmpGe ua ub pd => formatR 0x08 ua ub 0 pd 0 0 5
  | .par ua pd => formatR 0x09 ua 0 0 pd 0 0 0
  | .pand pd pa pb => formatR 0x0A 0 0 0 pd pa pb 0
  | .por pd pa pb => formatR 0x0A 0 0 0 pd pa pb 1
  | .pxor pd pa pb => formatR 0x0A 0 0 0 pd pa pb 2
  | .ldcZero ua => formatR 0x0B ua 0 0 0 0 0 0
  | .ldcOne ua => formatR 0x0B ua 0 0 0 0 0 1
  | .ldbe ua slot => formatM 0x0C ua slot
  | .stbe ua slot => formatM 0x0D ua slot
  | .halt => formatR 0x3F 0 0 0 0 0 0 0

/-- The opcode-table row of an instruction: its match and mask (R94). -/
def Instr.rowBits : Instr → Word × Word
  | .replace _ _ _ => (0x04000000, 0xFC03FFFF)
  | .swap _ _ _ => (0x08000000, 0xFC03FFFF)
  | .add _ _ _ _ => (0x0C000000, 0xFC00FFFF)
  | .sub _ _ _ _ => (0x10000000, 0xFC00FFFF)
  | .shl1 _ _ => (0x14000000, 0xFC7CFFFF)
  | .shr1 _ _ => (0x18000000, 0xFC73FFFF)
  | .recip _ _ => (0x1C000000, 0xFC0FFFFF)
  | .cmpEq _ _ _ => (0x20000000, 0xFC0CFFFF)
  | .cmpNe _ _ _ => (0x20000001, 0xFC0CFFFF)
  | .cmpLt _ _ _ => (0x20000002, 0xFC0CFFFF)
  | .cmpLe _ _ _ => (0x20000003, 0xFC0CFFFF)
  | .cmpGt _ _ _ => (0x20000004, 0xFC0CFFFF)
  | .cmpGe _ _ _ => (0x20000005, 0xFC0CFFFF)
  | .par _ _ => (0x24000000, 0xFC7CFFFF)
  | .pand _ _ _ => (0x28000000, 0xFFFC0FFF)
  | .por _ _ _ => (0x28000001, 0xFFFC0FFF)
  | .pxor _ _ _ => (0x28000002, 0xFFFC0FFF)
  | .ldcZero _ => (0x2C000000, 0xFC7FFFFF)
  | .ldcOne _ => (0x2C000001, 0xFC7FFFFF)
  | .ldbe _ _ => (0x30000000, 0xFC7F0000)
  | .stbe _ _ => (0x34000000, 0xFC7F0000)
  | .halt => (0xFC000000, 0xFFFFFFFF)

end Sys2Proof
end

