-- ==== Sys2Proof/Machine/Ops.lean ====
section
/-! DEFINITION. The named operations over the memories and the registers (R13 of 00_scope.md), fault entry (R215 of
60_exceptions.md), and the three other ways the run state changes: START, HALT and the host's acknowledgement. -/

namespace Sys2Proof.Machine

/-! ### Memory contents in canonical form -/

/-- The written contents of address `a`, if something has been written there. -/
def Memory.lookup {w : Nat} : Memory w → Nat → Option (BitVec w)
  | [], _ => none
  | (b, y) :: m, a => if a = b then some y else Memory.lookup m a

/-- Write `x` at address `a`, keeping the addresses strictly rising. -/
def Memory.store {w : Nat} : Memory w → Nat → BitVec w → Memory w
  | [], a, x => [(a, x)]
  | (b, y) :: m, a, x =>
    if a < b then (a, x) :: (b, y) :: m
    else if a = b then (a, x) :: m
    else (b, y) :: Memory.store m a x

/-- The canonical form: strictly rising addresses. An unlisted address holds nothing written, so no entry can equal
what it holds, and equal written contents are equal lists (log 1). -/
def Memory.wf {w : Nat} : Memory w → Bool
  | [] => true
  | [_] => true
  | p :: q :: m => decide (p.1 < q.1) && Memory.wf (q :: m)

/-- Every listed address is below `n`. -/
def Memory.within {w : Nat} (m : Memory w) (n : Nat) : Bool := m.all (fun p => decide (p.1 < n))

/-- `MemWrite(a, n, v)` of R13 over the written contents: the byte at `a` is the most significant of the `n`. -/
def Memory.storeBE : Memory 8 → Nat → Nat → Nat → Memory 8
  | m, _, 0, _ => m
  | m, a, n + 1, v => Memory.storeBE (Memory.store m a (BitVec.ofNat 8 (v / 2 ^ (8 * n)))) (a + 1) n v

/-! ### The sizes of the instance (R9) -/

/-- IMEM_WORDS = 2^IMEM_LOG2. -/
def State.imemWords (s : State) : Nat := 2 ^ s.cfg.imemLog2

/-- DMEM_SLOTS = 2^DMEM_SLOTS_LOG2. -/
def State.dmemSlots (s : State) : Nat := 2 ^ s.cfg.dmemSlotsLog2

/-- DMEM_BYTES = 32 * DMEM_SLOTS. -/
def State.dmemBytes (s : State) : Nat := 32 * s.dmemSlots

/-! ### The memories (R61, R65, R80) -/

/-- DMEM byte `a`: what was written there, or else the fixed unknown value it holds since power-on (R80). -/
def State.dmemByte (s : State) (a : Nat) : Byte :=
  (Memory.lookup s.dmem a).getD (Config.dmemInit s.powerOns a)

/-- IMEM word `i`: what was written there, or else the fixed unknown value it holds since power-on (R80). -/
def State.imemWord (s : State) (i : Nat) : Word :=
  (Memory.lookup s.imem i).getD (Config.imemInit s.powerOns i)

/-- `MemRead(a, n)` of R13: the `n` bytes from `a` as a big-endian integer. -/
def State.memRead (s : State) : Nat → Nat → Nat
  | _, 0 => 0
  | a, n + 1 => (s.dmemByte a).toNat * 2 ^ (8 * n) + s.memRead (a + 1) n

/-- `MemWrite(a, n, v)` of R13. -/
def State.memWrite (s : State) (a n v : Nat) : State := { s with dmem := Memory.storeBE s.dmem a n v }

/-- Write instruction word `i`; only the host does (R65). -/
def State.imemWrite (s : State) (i : Nat) (w : Word) : State := { s with imem := Memory.store s.imem i w }

/-- `Fetch(pc)`: the word `IMEM[pc]` (R66). -/
def State.fetch (s : State) : Word := s.imemWord s.pc

/-! ### The registers -/

/-- `U[r]` (R13). -/
def State.readU (s : State) (r : UReg) : Value := s.u[r]

/-- `V[r]` (R23). -/
def State.valid (s : State) (r : UReg) : Bool := s.v[r]

/-- `U[r] <- x`, which also sets `V[r]` (R13, R23). -/
def State.writeU (s : State) (r : UReg) (x : Value) : State :=
  { s with u := s.u.set r x, v := s.v.set r true }

/-- `E[e]`; E0 always reads 1 (R26). -/
def State.readE (s : State) (e : EReg) : Bool :=
  match e with
  | 0 => true
  | 1 => s.e1
  | 2 => s.e2
  | 3 => s.e3

/-- `E[e] <- b`; a write to E0 is discarded (R26). -/
def State.writeE (s : State) (e : EReg) (b : Bool) : State :=
  match e with
  | 0 => s
  | 1 => { s with e1 := b }
  | 2 => { s with e2 := b }
  | 3 => { s with e3 := b }

/-- `pc <- pc + 1`, the only advance there is (R31). -/
def State.advance (s : State) : State := { s with pc := s.pc + 1 }

/-- The next `draw()`. -/
def State.drawn (s : State) : Value := Config.draw s.draws

/-- Count a draw, so that the next one is a value of its own. -/
def State.countDraw (s : State) : State := { s with draws := s.draws + 1 }

/-! ### Faults, and the ends and starts of a run -/

/-- Fault entry, `raise Fault(cause)` with fetched word `w` (R215): the record is written, the run state becomes
FAULTED, and everything else stays, PC included. There is no return from a fault (R218): the host acknowledges it
(`State.acknowledge`) or starts a new run (`State.startRun`). -/
def State.takeFault (s : State) (cause : FaultCause) (w : Word) : State :=
  { s with faultCause := cause, faultPc := s.pc, faultInsn := w, run := .faulted }

/-- START (R201): the fault record is cleared, PC is loaded from START_PC, the run state becomes RUNNING. -/
def State.startRun (s : State) : State :=
  { s with faultCause := .noFault, faultPc := 0, faultInsn := 0, pc := s.startPc, run := .running }

/-- HALT's effect (R203): the run state becomes HALTED, PC stays. -/
def State.haltRun (s : State) : State := { s with run := .halted }

/-- The host clears DONE or FAULT: the run state becomes IDLE and nothing else changes (R43). -/
def State.acknowledge (s : State) : State := { s with run := .idle }

/-- The first cause whose check applies, in the order given (R213). -/
def firstFault : List (Bool × FaultCause) → Option FaultCause
  | [] => none
  | (applies, cause) :: checks => if applies then some cause else firstFault checks

/-- One instruction at state `s`: the first check that applies raises its fault with the fetched word, and nothing of
the instruction is committed; otherwise its writes are committed together (R202, R213, R215). -/
def State.retire (s : State) (checks : List (Bool × FaultCause)) (effect : State) : Result :=
  match firstFault checks with
  | some cause => .next (s.takeFault cause s.fetch)
  | none => .next effect

/-- The state of R51 after a reset, with the memories and the instance kept: every V is 0, so no value of an earlier
run can be read (R241). U is set to zeros, which nothing can read (log 3). -/
def State.softReset (s : State) : State :=
  { s with
    u := Vector.replicate 8 0
    v := Vector.replicate 8 false
    e1 := false
    e2 := false
    e3 := false
    pc := 0
    run := .idle
    irqEn := false
    startPc := 0
    faultCause := .noFault
    faultPc := 0
    faultInsn := 0 }

/-- Hardware reset (R240): as SOFT_RESET, and the memories hold new unknown values (R80; log 2). -/
def State.hardReset (s : State) : State :=
  { s.softReset with imem := [], dmem := [], powerOns := s.powerOns + 1 }

end Sys2Proof.Machine
end

