-- ==== Sys2Proof/Machine/Operands.lean ====
section
/-! DEFINITION. The operand forms: the value registers an instruction reads (R24), the enable predicate (R15), the
slot (R97), and the checks on them. -/

namespace Sys2Proof.Machine

/-- `sel(en, a, b)`: a if en = 1, b if en = 0 (R13). -/
def sel {α : Type} (en : Bool) (a b : α) : α := if en then a else b

/-- The enable `E[PE]`; PE = 0 names E0, which reads 1 (R15). -/
def State.enable (s : State) (pe : EReg) : Bool := s.readE pe

/-- The check of `RequireValid(r)` (R13). -/
def State.unwritten (s : State) (r : UReg) : Bool := !s.valid r

/-- The byte address that a slot number names (R97). It depends on the instruction word alone (R81). -/
def slotAddress (slot : Nat) : Nat := 32 * slot

/-- The check of DMEM_RANGE (R97, R211). -/
def State.slotOutside (s : State) (slot : Nat) : Bool := decide (s.dmemSlots ≤ slot)

/-- The 256-bit value of a slot, its first byte the most significant (R62). -/
def State.slotValue (s : State) (slot : Nat) : Value := BitVec.ofNat 256 (s.memRead (slotAddress slot) 32)

/-- The two UNINIT checks of an instruction that reads U[UA] and U[UB] (R24). -/
def State.pairChecks (s : State) (ua ub : UReg) : List (Bool × FaultCause) :=
  [(s.unwritten ua, .uninit), (s.unwritten ub, .uninit)]

/-- The value registers that an instruction reads, in the sense of R24 (RequireValid is applied). -/
def readsU : Instr → List UReg
  | .replace ua ub pe => if pe = 0 then [ub] else [ua, ub]
  | .swap ua ub _ => [ua, ub]
  | .add ua ub _ _ => [ua, ub]
  | .sub ua ub _ _ => [ua, ub]
  | .shl1 ua _ => [ua]
  | .shr1 ua _ => [ua]
  | .recip ua ub => [ua, ub]
  | .cmpEq ua ub _ => [ua, ub]
  | .cmpNe ua ub _ => [ua, ub]
  | .cmpLt ua ub _ => [ua, ub]
  | .cmpLe ua ub _ => [ua, ub]
  | .cmpGt ua ub _ => [ua, ub]
  | .cmpGe ua ub _ => [ua, ub]
  | .par ua _ => [ua]
  | .pand _ _ _ => []
  | .por _ _ _ => []
  | .pxor _ _ _ => []
  | .ldcZero _ => []
  | .ldcOne _ => []
  | .ldbe _ _ => []
  | .stbe ua _ => [ua]
  | .halt => []

/-- The value registers that an instruction writes (R24). -/
def writesU : Instr → List UReg
  | .replace ua _ _ => [ua]
  | .swap ua ub _ => [ua, ub]
  | .add ua _ _ _ => [ua]
  | .sub ua _ _ _ => [ua]
  | .shl1 ua _ => [ua]
  | .shr1 ua _ => [ua]
  | .recip ua _ => [ua]
  | .cmpEq _ _ _ => []
  | .cmpNe _ _ _ => []
  | .cmpLt _ _ _ => []
  | .cmpLe _ _ _ => []
  | .cmpGt _ _ _ => []
  | .cmpGe _ _ _ => []
  | .par _ _ => []
  | .pand _ _ _ => []
  | .por _ _ _ => []
  | .pxor _ _ _ => []
  | .ldcZero ua => [ua]
  | .ldcOne ua => [ua]
  | .ldbe ua _ => [ua]
  | .stbe _ _ => []
  | .halt => []

/-- The predicate registers that an instruction writes (R27). E0 may stand here; a write to it is discarded (R26). -/
def writesE : Instr → List EReg
  | .replace _ _ _ => []
  | .swap _ _ _ => []
  | .add _ _ _ pd => [pd]
  | .sub _ _ _ pd => [pd]
  | .shl1 _ pd => [pd]
  | .shr1 _ _ => []
  | .recip _ _ => []
  | .cmpEq _ _ pd => [pd]
  | .cmpNe _ _ pd => [pd]
  | .cmpLt _ _ pd => [pd]
  | .cmpLe _ _ pd => [pd]
  | .cmpGt _ _ pd => [pd]
  | .cmpGe _ _ pd => [pd]
  | .par _ pd => [pd]
  | .pand pd _ _ => [pd]
  | .por pd _ _ => [pd]
  | .pxor pd _ _ => [pd]
  | .ldcZero _ => []
  | .ldcOne _ => []
  | .ldbe _ _ => []
  | .stbe _ _ => []
  | .halt => []

end Sys2Proof.Machine
end

