-- ==== Sys2Proof/Machine/Arithmetic.lean ====
section
/-! DEFINITION. The arithmetic core: ADD and SUB (41_arithmetic.md). -/

namespace Sys2Proof.Machine

/-- `(a + en * b) mod 2^256` (R130). -/
def sumValue (en : Bool) (a b : Value) : Value := BitVec.ofNat 256 (a.toNat + en.toNat * b.toNat)

/-- `(a - en * b) mod 2^256` (R132). -/
def differenceValue (en : Bool) (a b : Value) : Value :=
  BitVec.ofInt 256 ((a.toNat : Int) - (en.toNat * b.toNat : Nat))

/-- ADD (R130). The enable is read before the carry is written, so PD = PE is allowed. -/
def execAdd (ua ub : UReg) (pe pd : EReg) (s : State) : Result :=
  s.retire ((decide (ua = ub), .aliased) :: s.pairChecks ua ub)
    ((s.writeU ua (sumValue (s.enable pe) (s.readU ua) (s.readU ub))).writeE pd
      (carryOut (s.enable pe) (s.readU ua) (s.readU ub))).advance

/-- SUB (R132). -/
def execSub (ua ub : UReg) (pe pd : EReg) (s : State) : Result :=
  s.retire ((decide (ua = ub), .aliased) :: s.pairChecks ua ub)
    ((s.writeU ua (differenceValue (s.enable pe) (s.readU ua) (s.readU ub))).writeE pd
      (borrowOut (s.enable pe) (s.readU ua) (s.readU ub))).advance

end Sys2Proof.Machine
end

