-- ==== Sys2Proof/Machine/Codec.lean ====
section
/-! DEFINITION. The codec boundary and the constants: LDBE, STBE, LDC.ZERO, LDC.ONE (46_codec.md). -/

namespace Sys2Proof.Machine

/-- LDBE (R190). It reads no value register, so it never raises UNINIT. -/
def execLdbe (ua : UReg) (slot : Nat) (s : State) : Result :=
  s.retire [(s.slotOutside slot, .dmemRange)] (s.writeU ua (s.slotValue slot)).advance

/-- STBE (R191). UNINIT is checked before DMEM_RANGE (R213). -/
def execStbe (ua : UReg) (slot : Nat) (s : State) : Result :=
  s.retire [(s.unwritten ua, .uninit), (s.slotOutside slot, .dmemRange)]
    (s.memWrite (slotAddress slot) 32 (s.readU ua).toNat).advance

/-- LDC.ZERO (R194). -/
def execLdcZero (ua : UReg) (s : State) : Result := s.retire [] (s.writeU ua 0).advance

/-- LDC.ONE (R195). -/
def execLdcOne (ua : UReg) (s : State) : Result := s.retire [] (s.writeU ua 1).advance

end Sys2Proof.Machine
end

