-- ==== Sys2Proof/Machine/Compare.lean ====
section
/-! DEFINITION. The comparison core: the six CMP instructions (44_compare.md). -/

namespace Sys2Proof.Machine

/-- The template of the six: `E[PD]` receives the comparison of U[UA] with U[UB]; no value register is written. -/
def compareWith (flag : Value → Value → Bool) (ua ub : UReg) (pd : EReg) (s : State) : Result :=
  s.retire (s.pairChecks ua ub) (s.writeE pd (flag (s.readU ua) (s.readU ub))).advance

/-- CMP.EQ (R170). -/
def execCmpEq (ua ub : UReg) (pd : EReg) (s : State) : Result := compareWith flagEq ua ub pd s
/-- CMP.NE (R171). -/
def execCmpNe (ua ub : UReg) (pd : EReg) (s : State) : Result := compareWith flagNe ua ub pd s
/-- CMP.LT (R172). -/
def execCmpLt (ua ub : UReg) (pd : EReg) (s : State) : Result := compareWith flagLt ua ub pd s
/-- CMP.LE (R173). -/
def execCmpLe (ua ub : UReg) (pd : EReg) (s : State) : Result := compareWith flagLe ua ub pd s
/-- CMP.GT (R174). -/
def execCmpGt (ua ub : UReg) (pd : EReg) (s : State) : Result := compareWith flagGt ua ub pd s
/-- CMP.GE (R175). -/
def execCmpGe (ua ub : UReg) (pd : EReg) (s : State) : Result := compareWith flagGe ua ub pd s

end Sys2Proof.Machine
end

