-- ==== Sys2Proof/Machine/Control.lean ====
section
/-! DEFINITION. HALT, the only control instruction (47_control.md): there is no branch, jump, call or return (R200). -/

namespace Sys2Proof.Machine

/-- HALT (R203): the run ends in HALTED and PC keeps the HALT's own index. -/
def execHalt (s : State) : Result := s.retire [] s.haltRun

end Sys2Proof.Machine
end

