-- ==== Sys2Proof/Machine/Predicate.lean ====
section
/-! DEFINITION. Predicate operations: PAR, PAND, POR, PXOR (45_predicate.md). -/

namespace Sys2Proof.Machine

/-- PAR (R180). -/
def execPar (ua : UReg) (pd : EReg) (s : State) : Result :=
  s.retire [(s.unwritten ua, .uninit)] (s.writeE pd (parityBit (s.readU ua))).advance

/-- The template of PAND, POR and PXOR: both sources are read before the destination is written. They never fault. -/
def predicateLogic (op : Bool → Bool → Bool) (pd pa pb : EReg) (s : State) : Result :=
  s.retire [] (s.writeE pd (op (s.readE pa) (s.readE pb))).advance

/-- PAND (R181). -/
def execPand (pd pa pb : EReg) (s : State) : Result := predicateLogic Bool.and pd pa pb s
/-- POR (R182). -/
def execPor (pd pa pb : EReg) (s : State) : Result := predicateLogic Bool.or pd pa pb s
/-- PXOR (R183). -/
def execPxor (pd pa pb : EReg) (s : State) : Result := predicateLogic Bool.xor pd pa pb s

end Sys2Proof.Machine
end

