-- ==== Sys2Proof/Machine/Reciprocal.lean ====
section
/-! DEFINITION. The modular inverse engine: RECIP (43_reciprocal.md). What RECIP must compute is R150; how the engine
computes it in a fixed number of steps is the schedule of R156, which is written here step by step and gives the value
that RECIP writes (log 19). -/

namespace Sys2Proof.Machine

/-- The engine's temporaries: the running remainders x and y and their cofactors a and b (R155). They exist only
inside one RECIP (R34). -/
structure Engine where
  x : Int
  y : Int
  a : Int
  b : Int
deriving DecidableEq, Repr

/-- Step 4: swap the pairs if y is odd and x > y, so that y >= x whenever y is odd (R156). -/
def engineReorder (e : Engine) : Engine :=
  let sw := decide (e.y % 2 = 1) && decide (e.x > e.y)
  { x := sel sw e.y e.x, y := sel sw e.x e.y, a := sel sw e.b e.a, b := sel sw e.a e.b }

/-- Step 2: subtract x from y if y is odd, and the cofactors modulo m (R156). -/
def engineSubtract (m : Int) (e : Engine) : Engine :=
  let yOdd := e.y % 2
  let d := e.b - yOdd * e.a
  { e with y := e.y - yOdd * e.x, b := d + sel (decide (d < 0)) m 0 }

/-- Step 3: halve y, which is even here, and its cofactor modulo m, with `h = (m + 1) / 2` (R156). -/
def engineHalve (h : Int) (e : Engine) : Engine :=
  { e with y := e.y / 2, b := e.b / 2 + (e.b % 2) * h }

/-- One iteration: steps 1 to 4 (R156). -/
def engineIterate (m h : Int) (e : Engine) : Engine :=
  engineReorder (engineHalve h (engineSubtract m e))

/-- `n` iterations. -/
def engineLoop (m h : Int) : Nat → Engine → Engine
  | 0, e => e
  | n + 1, e => engineLoop m h n (engineIterate m h e)

/-- RECIP_ITERS (R9, R158). -/
def recipIters : Nat := 512

/-- The engine before its loop: step 4 done once on `x = m, y = t, a = 0, b = 1` (R156). -/
def engineStart (t m : Nat) : Engine := engineReorder { x := m, y := t, a := 0, b := 1 }

/-- The engine after its 512 iterations (R156, R158). -/
def engineRun (t m : Nat) : Engine := engineLoop m ((m + 1) / 2) recipIters (engineStart t m)

/-- The result after the final normalisation into [0, m) (R156, R159). -/
def engineResult (t m : Nat) : Nat :=
  let a := (engineRun t m).a
  (a - sel (decide (a ≥ (m : Int))) (m : Int) 0).toNat

/-- `ok_ref`: the preconditions as the engine tests them after its loop (R156, R158). -/
def engineOk (t m : Nat) : Bool :=
  decide (m % 2 = 1) && decide (t < m) && (decide (t = 0) || decide ((engineRun t m).x = 1))

/-- `ok`: m is odd, t < m, and t = 0 or gcd(t, m) = 1 (R150, R152). -/
def recipOk (t m : Nat) : Bool :=
  decide (m % 2 = 1) && decide (t < m) && (decide (t = 0) || decide (Nat.gcd t m = 1))

/-- What RECIP does to the state once its faults are ruled out: the inverse, or a free value (R150, R153). -/
def recipEffect (ua ub : UReg) (s : State) : State :=
  let t := (s.readU ua).toNat
  let m := (s.readU ub).toNat
  if recipOk t m then (s.writeU ua (BitVec.ofNat 256 (engineResult t m))).advance
  else ((s.writeU ua s.drawn).countDraw).advance

/-- RECIP (R150). -/
def execRecip (ua ub : UReg) (s : State) : Result :=
  s.retire
    (s.pairChecks ua ub ++
      [(s.cfg.recipCheck && !recipOk (s.readU ua).toNat (s.readU ub).toNat, .recipPrecond)])
    (recipEffect ua ub s)

end Sys2Proof.Machine
end

