-- ==== Sys2Proof/Machine/SelectSwap.lean ====
section
/-! DEFINITION. Conditional select and swap: REPLACE and SWAP (40_select_swap.md). -/

namespace Sys2Proof.Machine

/-- REPLACE (R120). With PE = 0 the receiver is overwritten and may be unwritten before. -/
def execReplace (ua ub : UReg) (pe : EReg) (s : State) : Result :=
  s.retire [(s.unwritten ub, .uninit), (decide (pe ≠ 0) && s.unwritten ua, .uninit)]
    (s.writeU ua (sel (s.enable pe) (s.readU ub) (s.readU ua))).advance

/-- SWAP (R121). Both reads happen before either write. -/
def execSwap (ua ub : UReg) (pe : EReg) (s : State) : Result :=
  s.retire (s.pairChecks ua ub)
    ((s.writeU ua (sel (s.enable pe) (s.readU ub) (s.readU ua))).writeU ub
      (sel (s.enable pe) (s.readU ua) (s.readU ub))).advance

end Sys2Proof.Machine
end

