-- ==== Sys2Proof/Machine/Shift.lean ====
section
/-! DEFINITION. The shift core: SHL1 and SHR1 (42_shift.md). -/

namespace Sys2Proof.Machine

/-- `(a * 2) mod 2^256` (R140). -/
def doubled (a : Value) : Value := BitVec.ofNat 256 (a.toNat * 2)

/-- `floor(a / 2)` (R141). -/
def halved (a : Value) : Value := BitVec.ofNat 256 (a.toNat / 2)

/-- SHL1 (R140). -/
def execShl1 (ua : UReg) (pd : EReg) (s : State) : Result :=
  s.retire [(s.unwritten ua, .uninit)]
    ((s.writeU ua (doubled (s.readU ua))).writeE pd (topBit (s.readU ua))).advance

/-- SHR1 (R141). The bit shifted out is lost. -/
def execShr1 (ua : UReg) (pe : EReg) (s : State) : Result :=
  s.retire [(s.unwritten ua, .uninit)]
    (s.writeU ua (sel (s.enable pe) (halved (s.readU ua)) (s.readU ua))).advance

end Sys2Proof.Machine
end

