-- ==== Sys2Proof/Machine/Dispatch.lean ====
section
/-! DEFINITION. Which meaning each instruction has: one arm per constructor of Instr. -/

namespace Sys2Proof.Machine

def exec (i : Instr) (s : State) : Host.Outcome State Fault Refusal :=
  match i with
  | .replace ua ub pe => Sys2Proof.Machine.execReplace ua ub pe s
  | .swap ua ub pe => Sys2Proof.Machine.execSwap ua ub pe s
  | .add ua ub pe pd => Sys2Proof.Machine.execAdd ua ub pe pd s
  | .sub ua ub pe pd => Sys2Proof.Machine.execSub ua ub pe pd s
  | .shl1 ua pd => Sys2Proof.Machine.execShl1 ua pd s
  | .shr1 ua pe => Sys2Proof.Machine.execShr1 ua pe s
  | .recip ua ub => Sys2Proof.Machine.execRecip ua ub s
  | .cmpEq ua ub pd => Sys2Proof.Machine.execCmpEq ua ub pd s
  | .cmpNe ua ub pd => Sys2Proof.Machine.execCmpNe ua ub pd s
  | .cmpLt ua ub pd => Sys2Proof.Machine.execCmpLt ua ub pd s
  | .cmpLe ua ub pd => Sys2Proof.Machine.execCmpLe ua ub pd s
  | .cmpGt ua ub pd => Sys2Proof.Machine.execCmpGt ua ub pd s
  | .cmpGe ua ub pd => Sys2Proof.Machine.execCmpGe ua ub pd s
  | .par ua pd => Sys2Proof.Machine.execPar ua pd s
  | .pand pd pa pb => Sys2Proof.Machine.execPand pd pa pb s
  | .por pd pa pb => Sys2Proof.Machine.execPor pd pa pb s
  | .pxor pd pa pb => Sys2Proof.Machine.execPxor pd pa pb s
  | .ldcZero ua => Sys2Proof.Machine.execLdcZero ua s
  | .ldcOne ua => Sys2Proof.Machine.execLdcOne ua s
  | .ldbe ua slot => Sys2Proof.Machine.execLdbe ua slot s
  | .stbe ua slot => Sys2Proof.Machine.execStbe ua slot s
  | .halt => Sys2Proof.Machine.execHalt s

end Sys2Proof.Machine
end

