-- ==== Sys2Proof/Machine/HostPort.lean ====
section
/-! DEFINITION. The host register interface: the control registers of 10_state.md (R36 to R50), the DMEM and IMEM
windows of 20_memory.md (R64, R71, R75), SOFT_RESET and the IRQ output. It is the only way the host reaches the unit. -/

namespace Sys2Proof.Machine

/-- BASE, 16 KiB aligned (R9, R36). -/
def State.base (s : State) : Nat := 16384 * s.cfg.baseBlock

/-- The IRQ output: `CTRL.IRQ_EN & (STATUS.DONE | STATUS.FAULT)` (R220). -/
def State.irq (s : State) : Bool := s.irqEn && (decide (s.run = .halted) || decide (s.run = .faulted))

/-- The code of a cause, as FAULT_CAUSE bits 3:0 hold it (R211). -/
def causeCode : FaultCause → Nat
  | .noFault => 0
  | .illegal => 1
  | .aliased => 2
  | .uninit => 3
  | .dmemRange => 4
  | .recipPrecond => 5
  | .pcRange => 6

/-! ### The values of the control registers -/

/-- CONFIG (R41): IMEM_LOG2 in bits 3:0, DMEM_SLOTS_LOG2 in bits 7:4, RECIP_CHECK in bit 8. -/
def State.regConfig (s : State) : Word :=
  BitVec.ofNat 32 (s.cfg.imemLog2 % 16 + 16 * (s.cfg.dmemSlotsLog2 % 16) + 256 * s.cfg.recipCheck.toNat)

/-- CTRL (R42): START and SOFT_RESET read 0; IRQ_EN is bit 2. -/
def State.regCtrl (s : State) : Word := BitVec.ofNat 32 (4 * s.irqEn.toNat)

/-- STATUS (R43): BUSY, DONE, FAULT in bits 0 to 2, E0 to E3 in bits 8 to 11. -/
def State.regStatus (s : State) : Word :=
  BitVec.ofNat 32
    ((decide (s.run = .running)).toNat + 2 * (decide (s.run = .halted)).toNat + 4 * (decide (s.run = .faulted)).toNat +
      256 * (s.readE 0).toNat + 512 * (s.readE 1).toNat + 1024 * (s.readE 2).toNat + 2048 * (s.readE 3).toNat)

/-- A field of IMEM_LOG2 + 1 bits that holds a program counter (R45, R47). -/
def State.regIndex (s : State) (i : Nat) : Word := BitVec.ofNat 32 (i % 2 ^ (s.cfg.imemLog2 + 1))

/-- What a read of PC returns (R45). While RUNNING it is a free choice among the indices that the run has reached,
START_PC .. PC (S10, R248; log 7). -/
def State.pcSeen (s : State) : Nat :=
  if s.run = .running then s.startPc + Config.drawIndex s.draws % (s.pc - s.startPc + 1) else s.pc

/-- The control registers by offset (R37); reserved offsets read 0 (R49). -/
def State.readControl (s : State) (off : Nat) : Word :=
  if off = 0x000 then 0x55323536
  else if off = 0x004 then 0x00000007
  else if off = 0x008 then s.regConfig
  else if off = 0x010 then s.regCtrl
  else if off = 0x014 then s.regStatus
  else if off = 0x018 then BitVec.ofNat 32 s.startPc
  else if off = 0x01C then s.regIndex s.pcSeen
  else if off = 0x020 then BitVec.ofNat 32 (causeCode s.faultCause)
  else if off = 0x024 then s.regIndex s.faultPc
  else if off = 0x028 then s.faultInsn
  else 0

/-! ### Writes to the control registers -/

/-- A write to CTRL (R42): SOFT_RESET wins over everything else in the word (log 13); otherwise IRQ_EN is written, and
START starts a run unless one is RUNNING (R201). -/
def State.writeCtrl (s : State) (w : Word) : State :=
  if w.getLsbD 1 then s.softReset
  else if w.getLsbD 0 && !decide (s.run = .running) then { s.startRun with irqEn := w.getLsbD 2 }
  else { s with irqEn := w.getLsbD 2 }

/-- A write to STATUS (R43): writing 1 to DONE while HALTED, or to FAULT while FAULTED, goes to IDLE. -/
def State.writeStatus (s : State) (w : Word) : State :=
  if w.getLsbD 1 && decide (s.run = .halted) then s.acknowledge
  else if w.getLsbD 2 && decide (s.run = .faulted) then s.acknowledge
  else s

/-- A write to START_PC (R44): the low IMEM_LOG2 bits, ignored while RUNNING. -/
def State.writeStartPc (s : State) (w : Word) : State :=
  if s.run = .running then s else { s with startPc := w.toNat % s.imemWords }

/-- Writes to the control registers by offset; the others are RO or RAZ/WI, so a write is ignored (R37, R38, R49). -/
def State.writeControl (s : State) (off : Nat) (w : Word) : State :=
  if off = 0x010 then s.writeCtrl w
  else if off = 0x014 then s.writeStatus w
  else if off = 0x018 then s.writeStartPc w
  else s

/-! ### The windows (R64, R71, R75) -/

/-- A read of the DMEM window at byte `b`: 0 while RUNNING and outside DMEM, else the four bytes with the lowest
address in bits 31:24. -/
def State.readDmemWindow (s : State) (b : Nat) : Word :=
  if s.run = .running then 0
  else if b < s.dmemBytes then BitVec.ofNat 32 (s.memRead b 4)
  else 0

/-- A write to the DMEM window at byte `b`: ignored while RUNNING and outside DMEM. -/
def State.writeDmemWindow (s : State) (b : Nat) (w : Word) : State :=
  if s.run = .running then s
  else if b < s.dmemBytes then s.memWrite b 4 w.toNat
  else s

/-- A read of the IMEM window at word `i`: 0 while RUNNING and outside IMEM. -/
def State.readImemWindow (s : State) (i : Nat) : Word :=
  if s.run = .running then 0
  else if i < s.imemWords then s.imemWord i
  else 0

/-- A write to the IMEM window at word `i`: ignored while RUNNING and outside IMEM. -/
def State.writeImemWindow (s : State) (i : Nat) (w : Word) : State :=
  if s.run = .running then s
  else if i < s.imemWords then s.imemWrite i w
  else s

/-! ### The host map (R71) -/

/-- What a 32-bit read at an aligned offset from BASE returns. No read changes the unit (R70). -/
def State.hostRead (s : State) (off : Nat) : Word :=
  if off < 0x1000 then s.readControl off
  else if off < 0x2000 then s.readDmemWindow (off - 0x1000)
  else if off < 0x3000 then s.readImemWindow ((off - 0x2000) / 4)
  else 0

/-- A 32-bit write at an aligned offset from BASE. -/
def State.hostWrite (s : State) (off : Nat) (w : Word) : State :=
  if off < 0x1000 then s.writeControl off w
  else if off < 0x2000 then s.writeDmemWindow (off - 0x1000) w
  else if off < 0x3000 then s.writeImemWindow ((off - 0x2000) / 4) w
  else s

/-- The unit answers at BASE .. BASE + 16 KiB - 1 (R71; log 12). -/
def State.ownsAddress (s : State) (addr : Nat) : Bool :=
  decide (s.base ≤ addr) && decide (addr < s.base + 16384)

/-- A supported access is 32 bits wide and 4-byte aligned (R39, R68). -/
def supportedAccess (addr size : Nat) : Bool := decide (size = 4) && decide (addr % 4 = 0)

/-- One host access at a host byte address, given what it does at an offset from BASE. -/
def State.hostAccess (s : State) (addr size : Nat) (act : State) : Result :=
  if !supportedAccess addr size then .refused .hostAccessUnsupported
  else if s.ownsAddress addr then .next act
  else .fault .hostAddressOutside

/-- One action of the host at state `s` (R230). A read leaves its data in `hostData`; the draw it may have made is
counted. -/
def State.hostStep (s : State) : HostAct → Result
  | .idle => .next s
  | .read addr size =>
    s.hostAccess addr size { s with hostData := s.hostRead (addr - s.base), draws := s.draws + 1 }
  | .write addr size data => s.hostAccess addr size (s.hostWrite (addr - s.base) data)
  | .hardReset => .next s.hardReset

end Sys2Proof.Machine
end

