-- ==== Sys2Proof/Machine/Sequencer.lean ====
section
/-! DEFINITION. The execution cycle of the sequencer (R202 of 47_control.md), and whose turn a step is (R17). -/

namespace Sys2Proof.Machine

/-- One turn of the execution cycle while RUNNING (R202): PC_RANGE before the fetch, then ILLEGAL, then the
instruction by its rule. -/
def cycle (s : State) : Result :=
  if s.imemWords ≤ s.pc then .next (s.takeFault .pcRange 0)
  else
    match decode s.fetch with
    | .ok i => exec i s
    | .error _ => .next (s.takeFault .illegal s.fetch)

/-- The sequencer's turn: it fetches and executes only while RUNNING (R33); otherwise it executes nothing and keeps
all its state (R229; log 15). -/
def sequence (s : State) : Result := if s.run = .running then cycle s else .next s

/-- One step: the host's next action if it has one, else the sequencer's turn (R17; log 8). -/
def turn (s : State) : Result :=
  match s.host with
  | [] => sequence s
  | .idle :: rest => sequence { s with host := rest }
  | act :: rest => ({ s with host := rest } : State).hostStep act

/-- The state that the very next step fetches from: RUNNING, by the START of R201 if it is not yet, with no host
action before it, and PC inside IMEM. -/
def State.readyToFetch (s : State) : State :=
  let t := if s.run = .running then s else s.startRun
  { t with host := [], pc := if t.pc < t.imemWords then t.pc else 0 }

/-- Store an instruction word where the next step fetches (log 10). -/
def State.placeWord (s : State) (w : Word) : State :=
  s.readyToFetch.imemWrite s.readyToFetch.pc w

end Sys2Proof.Machine
end

