-- ==== Sys2Proof/Machine/Step.lean ====
section
/-! DEFINITION. One step of the machine. -/

namespace Sys2Proof.Machine

/-- One step: one instruction of the sequencer, or one action of the host (R17, R202, R230). -/
def step (s : State) : Host.Outcome State Fault Refusal := turn s

/-- `s` with the instruction whose bits are `w` stored where `step` fetches its next instruction, and what that fetch
needs: the run state RUNNING and no host action before it. An instruction is one 32-bit word (R90). It stands for the
host's load of IMEM and START (R244; log 10). -/
def State.withFetchWord (s : State) (nbits w : Nat) : State :=
  s.placeWord (BitVec.ofNat 32 (w % 2 ^ nbits))

end Sys2Proof.Machine
end

