-- ==== Sys2Proof/Machine/Assembler.lean ====
section
/-! DEFINITION. The assembler of 30_encoding.md (R107 to R112): the text form of programs, the pseudo-instructions, the
directives, the 256-bit literals, and the host actions that load an image and start it (R230, R244). It is no part of
a step of the machine (log 22). -/

namespace Sys2Proof.Machine

/-- Why the assembler rejects a source file (R112). -/
inductive AsmError where
  | unknownMnemonic
  | badRegister
  | missingOperand
  | badNumber
  | slotOutOfRange
  | badLiteral
  | placedTwice
  | badLine
deriving DecidableEq, Repr

/-- What one source line gives (R107, R110). -/
inductive AsmItem where
  | insn (i : Instr)
  | word (w : Word)
  | u256 (v : Value)
  | org (n : Nat)
  | slot (s : Nat)
deriving DecidableEq, Repr

/-- A token of a line, in capitals: mnemonics and register names are case-insensitive (R107). -/
inductive AsmTok where
  | text (cs : List Char)
  | comma
  | arrow
deriving DecidableEq, Repr

/-! ### Tokens and lines -/

/-- Emit the text gathered so far (in reverse), if any. -/
def flushText (acc : List Char) (toks : List AsmTok) : List AsmTok :=
  if acc.isEmpty then toks else .text acc.reverse :: toks

/-- The tokens of one line; a comment runs from `;` to the end of the line (R107). The whole line is read in capitals:
R107 frees the case of mnemonics and register names and R111 that of a literal's digits. DESIGN CHOICE (log 22): so are
directive names, the x of a 0x prefix and the digits of a number, where the spec says nothing of case. -/
def tokensOf : List Char → List Char → List AsmTok
  | [], acc => flushText acc []
  | ';' :: _, acc => flushText acc []
  | ',' :: cs, acc => flushText acc (.comma :: tokensOf cs [])
  | '-' :: '>' :: cs, acc => flushText acc (.arrow :: tokensOf cs [])
  | c :: cs, acc => if c.isWhitespace then flushText acc (tokensOf cs []) else tokensOf cs (c.toUpper :: acc)

/-- The lines of a source text. -/
def linesOf : List Char → List Char → List (List Char)
  | [], acc => [acc.reverse]
  | '\n' :: cs, acc => acc.reverse :: linesOf cs []
  | c :: cs, acc => linesOf cs (c :: acc)

/-- Operands separated by commas, and the result after `->` if there is one (R107). -/
def operandsOf : List AsmTok → Except AsmError (List (List Char) × Option (List Char))
  | [] => .ok ([], none)
  | [.text a] => .ok ([a], none)
  | [.text a, .arrow, .text d] => .ok ([a], some d)
  | .text a :: .comma :: rest =>
    match operandsOf rest with
    | .ok (b :: bs, d) => .ok (a :: b :: bs, d)
    | .ok ([], _) => .error .missingOperand
    | .error e => .error e
  | _ => .error .badLine

/-! ### Numbers and registers -/

/-- The value of a digit, hexadecimal letters in capitals. -/
def digitOf (c : Char) : Option Nat :=
  if '0' ≤ c ∧ c ≤ '9' then some (c.toNat - '0'.toNat)
  else if 'A' ≤ c ∧ c ≤ 'F' then some (c.toNat - 'A'.toNat + 10)
  else none

/-- A number in base `b`, most significant digit first. -/
def numberFrom (b : Nat) : List Char → Nat → Option Nat
  | [], n => some n
  | c :: cs, n =>
    match digitOf c with
    | some d => if d < b then numberFrom b cs (b * n + d) else none
    | none => none

/-- A decimal or 0x-hex number, as R108 has it for a slot. DESIGN CHOICE (log 22): the operands of `.org`, `.slot` and
`.word` have the same form. -/
def numberOf : List Char → Except AsmError Nat
  | [] => .error .missingOperand
  | '0' :: 'X' :: c :: cs => (numberFrom 16 (c :: cs) 0).elim (.error .badNumber) .ok
  | cs => (numberFrom 10 cs 0).elim (.error .badNumber) .ok

/-- A 256-bit literal: exactly 64 hex digits, the most significant first, no prefix (R111). -/
def literalOf (cs : List Char) : Except AsmError Value :=
  if cs.length = 64 then (numberFrom 16 cs 0).elim (.error .badLiteral) (fun n => .ok (BitVec.ofNat 256 n))
  else .error .badLiteral

/-- U0 to U7. -/
def uregOf : List Char → Except AsmError UReg
  | ['U', c] =>
    match digitOf c with
    | some d => if d < 8 then .ok (Fin.ofNat 8 d) else .error .badRegister
    | none => .error .badRegister
  | _ => .error .badRegister

/-- E0 to E3. -/
def eregOf : List Char → Except AsmError EReg
  | ['E', c] =>
    match digitOf c with
    | some d => if d < 4 then .ok (Fin.ofNat 4 d) else .error .badRegister
    | none => .error .badRegister
  | _ => .error .badRegister

/-- An optional predicate operand, with its default E0 (R108). -/
def eregOr0 : Option (List Char) → Except AsmError EReg
  | none => .ok 0
  | some cs => eregOf cs

/-- A SLOT operand, 0 to 65535 (R108, R112). A slot outside DMEM is not rejected. -/
def slotOf (cs : List Char) : Except AsmError Nat :=
  match numberOf cs with
  | .ok n => if n < 65536 then .ok n else .error .slotOutOfRange
  | .error e => .error e

/-! ### Instructions (R108) and pseudo-instructions (R109) -/

/-- MOV Ua, Ub (R109). -/
def pseudoMov (ua ub : UReg) : Instr := .replace ua ub 0
/-- NOP (R103, R109). -/
def pseudoNop : Instr := .pand 0 0 0
/-- PSET Ed (R109). -/
def pseudoPset (pd : EReg) : Instr := .pand pd 0 0
/-- PCLR Ed (R109). -/
def pseudoPclr (pd : EReg) : Instr := .pxor pd pd pd
/-- PNOT Ea -> Ed (R109). -/
def pseudoPnot (pa pd : EReg) : Instr := .pxor pd pa 0
/-- PMOV Ea -> Ed (R109). -/
def pseudoPmov (pa pd : EReg) : Instr := .pand pd pa 0

/-- Operands `Ua, Ub [, Ee]`. -/
def asmPairEnable (mk : UReg → UReg → EReg → Instr) (a b : List Char) (e : Option (List Char)) :
    Except AsmError Instr := do
  return mk (← uregOf a) (← uregOf b) (← eregOr0 e)

/-- Operands `Ua, Ub [, Ee] [-> Ed]`. -/
def asmArith (mk : UReg → UReg → EReg → EReg → Instr) (a b : List Char) (e d : Option (List Char)) :
    Except AsmError Instr := do
  return mk (← uregOf a) (← uregOf b) (← eregOr0 e) (← eregOr0 d)

/-- Operands `Ua, Ub -> Ed`. -/
def asmCompare (mk : UReg → UReg → EReg → Instr) (a b d : List Char) : Except AsmError Instr := do
  return mk (← uregOf a) (← uregOf b) (← eregOf d)

/-- Operands `Ea, Eb -> Ed`. -/
def asmLogic (mk : EReg → EReg → EReg → Instr) (a b d : List Char) : Except AsmError Instr := do
  return mk (← eregOf d) (← eregOf a) (← eregOf b)

/-- The mnemonics of R108 and R109. -/
def mnemonics : List String :=
  ["REPLACE", "SWAP", "ADD", "SUB", "SHL1", "SHR1", "RECIP", "CMP.EQ", "CMP.NE", "CMP.LT", "CMP.LE", "CMP.GT", "CMP.GE",
    "PAR", "PAND", "POR", "PXOR", "LDC.ZERO", "LDC.ONE", "LDBE", "STBE", "HALT", "MOV", "NOP", "PSET", "PCLR", "PNOT", "PMOV"]

/-- One instruction line: mnemonic, operands, result. -/
def asmInsn (m : String) (ops : List (List Char)) (res : Option (List Char)) : Except AsmError Instr :=
  match m, ops, res with
  | "REPLACE", [a, b], none => asmPairEnable .replace a b none
  | "REPLACE", [a, b, e], none => asmPairEnable .replace a b (some e)
  | "SWAP", [a, b], none => asmPairEnable .swap a b none
  | "SWAP", [a, b, e], none => asmPairEnable .swap a b (some e)
  | "ADD", [a, b], d => asmArith .add a b none d
  | "ADD", [a, b, e], d => asmArith .add a b (some e) d
  | "SUB", [a, b], d => asmArith .sub a b none d
  | "SUB", [a, b, e], d => asmArith .sub a b (some e) d
  | "SHL1", [a], d => do return .shl1 (← uregOf a) (← eregOr0 d)
  | "SHR1", [a], none => do return .shr1 (← uregOf a) 0
  | "SHR1", [a, e], none => do return .shr1 (← uregOf a) (← eregOf e)
  | "RECIP", [a, b], none => do return .recip (← uregOf a) (← uregOf b)
  | "CMP.EQ", [a, b], some d => asmCompare .cmpEq a b d
  | "CMP.NE", [a, b], some d => asmCompare .cmpNe a b d
  | "CMP.LT", [a, b], some d => asmCompare .cmpLt a b d
  | "CMP.LE", [a, b], some d => asmCompare .cmpLe a b d
  | "CMP.GT", [a, b], some d => asmCompare .cmpGt a b d
  | "CMP.GE", [a, b], some d => asmCompare .cmpGe a b d
  | "PAR", [a], some d => do return .par (← uregOf a) (← eregOf d)
  | "PAND", [a, b], some d => asmLogic .pand a b d
  | "POR", [a, b], some d => asmLogic .por a b d
  | "PXOR", [a, b], some d => asmLogic .pxor a b d
  | "LDC.ZERO", [a], none => do return .ldcZero (← uregOf a)
  | "LDC.ONE", [a], none => do return .ldcOne (← uregOf a)
  | "LDBE", [a, n], none => do return .ldbe (← uregOf a) (← slotOf n)
  | "STBE", [a, n], none => do return .stbe (← uregOf a) (← slotOf n)
  | "HALT", [], none => .ok .halt
  | "MOV", [a, b], none => do return pseudoMov (← uregOf a) (← uregOf b)
  | "NOP", [], none => .ok pseudoNop
  | "PSET", [d], none => do return pseudoPset (← eregOf d)
  | "PCLR", [d], none => do return pseudoPclr (← eregOf d)
  | "PNOT", [a], some d => do return pseudoPnot (← eregOf a) (← eregOf d)
  | "PMOV", [a], some d => do return pseudoPmov (← eregOf a) (← eregOf d)
  | m, _, _ => if m ∈ mnemonics then .error .missingOperand else .error .unknownMnemonic

/-- One source line: an instruction, a directive (R110), or nothing. DESIGN CHOICE (log 22): `.org n` and `.slot s`
take any number, since R110 gives them no bound and R112 lists no error for them; a `.word` above 32 bits is
rejected. -/
def asmLine (line : List Char) : Except AsmError (Option AsmItem) :=
  match tokensOf line [] with
  | [] => .ok none
  | .text m :: rest => do
    let (ops, res) ← operandsOf rest
    match String.ofList m, ops, res with
    | ".ORG", [n], none => return some (.org (← numberOf n))
    | ".SLOT", [n], none => return some (.slot (← numberOf n))
    | ".U256", [h], none => return some (.u256 (← literalOf h))
    | ".WORD", [n], none =>
      let w ← numberOf n
      if w < 2 ^ 32 then return some (.word (BitVec.ofNat 32 w)) else throw .badNumber
    | m, ops, res => return some (.insn (← asmInsn m ops res))
  | _ => .error .badLine

/-! ### Images -/

/-- What the host loads: instruction words by index, and values by slot (R110). -/
structure Image where
  words : List (Nat × Word)
  slots : List (Nat × Value)
deriving DecidableEq, Repr

/-- Place one thing at one index; two things at one place are rejected (R112). -/
def placeOnce {w : Nat} (m : List (Nat × BitVec w)) (a : Nat) (x : BitVec w) :
    Except AsmError (List (Nat × BitVec w)) :=
  if m.any (fun p => p.1 = a) then .error .placedTwice else .ok (m ++ [(a, x)])

/-- Place the items in order, from the current IMEM index and DMEM slot. The index advances by 1 after an instruction,
as the listings of 95_test_vectors.md have it, and the slot after a value (R110). DESIGN CHOICE (log 22): the index
advances by 1 after a `.word` too, of which R110 says nothing. DESIGN CHOICE (log 22): no index and no slot
is too high here; whether the image fits an instance is `Image.fits`. -/
def placeItems : List AsmItem → Nat → Nat → Image → Except AsmError Image
  | [], _, _, img => .ok img
  | .org n :: is, _, s, img => placeItems is n s img
  | .slot s :: is, n, _, img => placeItems is n s img
  | .insn i :: is, n, s, img => do
    placeItems is (n + 1) s { img with words := ← placeOnce img.words n (encode i) }
  | .word w :: is, n, s, img => do
    placeItems is (n + 1) s { img with words := ← placeOnce img.words n w }
  | .u256 v :: is, n, s, img => do
    placeItems is n (s + 1) { img with slots := ← placeOnce img.slots s v }

/-- The items of all lines, or the first error. -/
def asmItems : List (List Char) → Except AsmError (List AsmItem)
  | [] => .ok []
  | line :: lines => do
    let item ← asmLine line
    let items ← asmItems lines
    return item.toList ++ items

/-- Assemble a source text: an image, or the reason there is none (R112). `.org` and `.slot` start at 0 (R110). -/
def assemble (source : List Char) : Except AsmError Image := do
  placeItems (← asmItems (linesOf source [])) 0 0 { words := [], slots := [] }

/-- Every word of the image has an index in IMEM and every value a slot in DMEM, on an instance with parameters `c`
(R9, R71). -/
def Image.fits (img : Image) (c : Config) : Bool :=
  img.words.all (fun p => decide (p.1 < 2 ^ c.imemLog2)) && img.slots.all (fun p => decide (p.1 < 2 ^ c.dmemSlotsLog2))

/-! ### Loading and starting (R230, R244) -/

/-- The eight host writes that store a value in a slot: host words in increasing address order, the most significant
first (R64). -/
def slotWrites (base slot : Nat) (v : Value) : List HostAct :=
  (List.range 8).map fun j =>
    .write (base + 0x1000 + 32 * slot + 4 * j) 4 (v.extractLsb' (32 * (7 - j)) 32)

/-- The host's boot sequence for an image that fits the instance (`Image.fits`): load IMEM, load DMEM, write START_PC,
write CTRL.START (R244). -/
def Image.boot (img : Image) (base startPc : Nat) : List HostAct :=
  img.words.map (fun p => .write (base + 0x2000 + 4 * p.1) 4 p.2) ++
    img.slots.flatMap (fun p => slotWrites base p.1 p.2) ++
    [.write (base + 0x018) 4 (BitVec.ofNat 32 startPc), .write (base + 0x010) 4 1]

end Sys2Proof.Machine
end

