-- ==== Sys2Proof/Machine/Datapath.lean ====
section
/-! DEFINITION. The word-level realisations: how the hardware computes on the eight 32-bit words of a value, in a
fixed order and whatever the enable (R22, R122, R131, R133, R142, R176, R177). The meanings use the value rules; that
the realisations compute the same values is stated, not assumed (log 24). -/

namespace Sys2Proof.Machine

/-! ### The words of a value (R22) -/

/-- `word(v, j)`: bits 32j+31 to 32j (R11). -/
def valueWord (v : Value) (j : Nat) : Word := v.extractLsb' (32 * j) 32

/-- The eight words, word 0 first (R22). -/
def valueWords (v : Value) : List Word := (List.range 8).map (valueWord v)

/-- The integer whose words, least significant first, are given: the sum of word j times 2^(32j) (R22). -/
def wordsNat : List Word → Nat
  | [] => 0
  | w :: ws => w.toNat + 2 ^ 32 * wordsNat ws

/-- The value whose words are given. -/
def ofWords (ws : List Word) : Value := BitVec.ofNat 256 (wordsNat ws)

/-! ### The mask blend (R122) -/

/-- `mask = 0 - en` as a 32-bit word: all ones or all zeros. -/
def enableMask (en : Bool) : Word := 0 - BitVec.ofNat 32 en.toNat

/-- One word of the blend: `(new AND mask) OR (old AND NOT mask)`. -/
def blendWord (en : Bool) (new old : Word) : Word :=
  (new &&& enableMask en) ||| (old &&& ~~~(enableMask en))

/-- The blend of two values, every word of both read whatever the enable. -/
def blend (en : Bool) (new old : Value) : Value :=
  ofWords (List.zipWith (blendWord en) (valueWords new) (valueWords old))

/-! ### The carry and borrow chains (R131, R133) -/

/-- The carry chain over word pairs, least significant first: `t = a + (b AND mask) + c`, the word is t mod 2^32, the
next carry floor(t / 2^32). The second component is the carry out. -/
def addChain (mask : Word) : List (Word × Word) → Nat → List Word × Nat
  | [], c => ([], c)
  | (a, b) :: ps, c =>
    let t := a.toNat + (b &&& mask).toNat + c
    let rest := addChain mask ps (t / 2 ^ 32)
    (BitVec.ofNat 32 t :: rest.1, rest.2)

/-- The borrow chain: `t = a - (b AND mask) - c`, the word is t mod 2^32, the next borrow is 1 if t < 0. -/
def subChain (mask : Word) : List (Word × Word) → Int → List Word × Int
  | [], c => ([], c)
  | (a, b) :: ps, c =>
    let t : Int := (a.toNat : Int) - ((b &&& mask).toNat : Int) - c
    let rest := subChain mask ps (if t < 0 then 1 else 0)
    (BitVec.ofInt 32 t :: rest.1, rest.2)

/-- The adder: the chain over all eight words from carry 0, its result and its carry out. -/
def addWords (en : Bool) (a b : Value) : Value × Bool :=
  let r := addChain (enableMask en) (List.zip (valueWords a) (valueWords b)) 0
  (ofWords r.1, decide (r.2 = 1))

/-- The subtracter: the chain over all eight words from borrow 0, its result and its borrow out. -/
def subWords (en : Bool) (a b : Value) : Value × Bool :=
  let r := subChain (enableMask en) (List.zip (valueWords a) (valueWords b)) 0
  (ofWords r.1, decide (r.2 = 1))

/-! ### The shifts (R142) -/

/-- Words shifted left by one, least significant first; `c` is the bit that enters at the bottom. -/
def shlChain : Nat → List Word → List Word
  | _, [] => []
  | c, w :: ws => BitVec.ofNat 32 (w.toNat * 2 % 2 ^ 32 + c) :: shlChain (w.getLsbD 31).toNat ws

/-- SHL1 on words: the shifted value, and bit 31 of word 7. -/
def shlWords (a : Value) : Value × Bool :=
  (ofWords (shlChain 0 (valueWords a)), (valueWord a 7).getLsbD 31)

/-- Words shifted right by one, least significant first: each takes bit 0 of the word above it. -/
def shrChain : List Word → List Word
  | [] => []
  | [w] => [BitVec.ofNat 32 (w.toNat / 2)]
  | w :: x :: ws => BitVec.ofNat 32 (w.toNat / 2 + (x.getLsbD 0).toNat * 2 ^ 31) :: shrChain (x :: ws)

/-- SHR1 on words, before the blend. -/
def shrWords (a : Value) : Value := ofWords (shrChain (valueWords a))

/-! ### The comparisons (R176, R177) -/

/-- The accumulator of R176: the OR of the XORs of all eight word pairs. -/
def eqAccumulator (a b : Value) : Word :=
  (List.zipWith (fun x y => x ^^^ y) (valueWords a) (valueWords b)).foldl (fun acc x => acc ||| x) 0

/-- One word pair of R177: `lt <- lt | (eq & [a < b])`, `eq <- eq & [a = b]`. -/
def orderStep (f : Bool × Bool) (p : Word × Word) : Bool × Bool :=
  (f.1 || (f.2 && decide (p.1.toNat < p.2.toNat)), f.2 && decide (p.1 = p.2))

/-- The flags (lt, eq) of R177 after all eight word pairs, the most significant first. -/
def orderFlags (a b : Value) : Bool × Bool :=
  (List.zip (valueWords a) (valueWords b)).reverse.foldl orderStep (false, true)

end Sys2Proof.Machine
end

