-- ==== Sys2Proof/Safety.lean ====
section
/-! DEFINITION. The terms that claims use: what an instruction leaves unchanged, which states are legal, when a run has
ended, and which parts of two states agree. -/

namespace Sys2Proof.Machine

/-! ### Frames -/

/-- Every value register outside `us` keeps its value and its valid bit. -/
def KeepsU (us : List UReg) (s t : State) : Prop :=
  ∀ r, r ∉ us → t.readU r = s.readU r ∧ t.valid r = s.valid r

/-- Every predicate register outside `es` keeps its bit. -/
def KeepsE (es : List EReg) (s t : State) : Prop := ∀ e, e ∉ es → t.readE e = s.readE e

/-- Every DMEM byte outside the `n` bytes from `a` reads as before; with `n = 0`, all of DMEM does. -/
def KeepsDmemOutside (a n : Nat) (s t : State) : Prop :=
  ∀ c, ¬(a ≤ c ∧ c < a + n) → t.dmemByte c = s.dmemByte c

/-- Every IMEM word reads as before. -/
def KeepsImem (s t : State) : Prop := ∀ i, t.imemWord i = s.imemWord i

/-- The run state and the fault record are unchanged. -/
structure KeepsRun (s t : State) : Prop where
  run : t.run = s.run
  faultCause : t.faultCause = s.faultCause
  faultPc : t.faultPc = s.faultPc
  faultInsn : t.faultInsn = s.faultInsn

/-- What only the host or a reset changes is unchanged: the instance, IRQ_EN, START_PC, and the host's own side. -/
structure KeepsHostSide (s t : State) : Prop where
  cfg : t.cfg = s.cfg
  irqEn : t.irqEn = s.irqEn
  startPc : t.startPc = s.startPc
  powerOns : t.powerOns = s.powerOns
  host : t.host = s.host
  hostData : t.hostData = s.hostData

/-- The frame of an instruction that writes the value registers `us`, the predicate registers `es`, and the `n` bytes
of DMEM from `a`, and retires: everything else but PC is unchanged, and no free value is drawn. -/
structure Frame (us : List UReg) (es : List EReg) (a n : Nat) (s t : State) : Prop where
  values : KeepsU us s t
  predicates : KeepsE es s t
  dmem : KeepsDmemOutside a n s t
  imem : KeepsImem s t
  run : KeepsRun s t
  hostSide : KeepsHostSide s t
  draws : t.draws = s.draws

/-- Fault entry (R215): the record names the cause, the instruction's index and its word, the run state is FAULTED, PC
stays, and no U, V, E, DMEM or IMEM state and nothing on the host's side changes. -/
structure EntersFault (c : FaultCause) (w : Word) (s t : State) : Prop where
  faultCause : t.faultCause = c
  faultPc : t.faultPc = s.pc
  faultInsn : t.faultInsn = w
  run : t.run = .faulted
  pc : t.pc = s.pc
  values : KeepsU [] s t
  predicates : KeepsE [] s t
  dmem : KeepsDmemOutside 0 0 s t
  imem : KeepsImem s t
  hostSide : KeepsHostSide s t
  draws : t.draws = s.draws

/-! ### Encodings -/

/-- `w` is the instruction's word: the encoder writes it and the decoder reads it back. -/
def IsWordOf (w : Word) (i : Instr) : Prop := encode i = w ∧ decode w = .ok i

/-! ### Legal states -/

/-- The invariant of the machine: the instance is one of R9's; both memories are in canonical form and inside their
sizes; PC, START_PC and FAULT_PC are in range (R30, R44, R47); the fault record and the run state fit each other (R33,
R46 to R48, R215); and a run's PC is not before its start (R31, R201). -/
structure Legal (s : State) : Prop where
  cfg : s.cfg.wf = true
  imemWf : Memory.wf s.imem = true
  imemWithin : Memory.within s.imem s.imemWords = true
  dmemWf : Memory.wf s.dmem = true
  dmemWithin : Memory.within s.dmem s.dmemBytes = true
  pcRange : s.pc ≤ s.imemWords
  startRange : s.startPc < s.imemWords
  faultPcRange : s.faultPc ≤ s.imemWords
  runningStart : s.run = .running → s.startPc ≤ s.pc
  runningClear : s.run = .running → s.faultCause = .noFault
  haltedClear : s.run = .halted → s.faultCause = .noFault ∧ s.pc < s.imemWords
  faultedCause : s.run = .faulted → s.faultCause ≠ .noFault ∧ s.faultPc = s.pc
  clearRecord : s.faultCause = .noFault → s.faultPc = 0 ∧ s.faultInsn = 0
  pcRangeRecord : s.faultCause = .pcRange ↔ s.faultPc = s.imemWords
  pcRangeInsn : s.faultCause = .pcRange → s.faultInsn = 0

/-! ### Runs -/

/-- `k` steps of the machine, stopping at a fault or a refusal. -/
def runSteps (k : Nat) (s : State) : Host.Outcome State Fault Refusal := Host.Core.run Sys2Proof.core k s

/-- The run has ended (R204): the run state is no longer RUNNING. -/
def Ended (s : State) : Prop := s.run ≠ .running

/-- The run ended successfully: only HALTED is success (R204). -/
def Succeeded (s : State) : Prop := s.run = .halted

/-- Instructions one after another, without fetching. -/
def execAll : List Instr → State → Host.Outcome State Fault Refusal
  | [], s => .next s
  | i :: is, s =>
    match exec i s with
    | .next t => execAll is t
    | .fault r => .fault r
    | .refused r => .refused r

/-- The step at `s` is the sequencer's turn, at state `s'`: the host has no action left, or its next one is none. -/
def SequencerTurn (s s' : State) : Prop :=
  (s.host = [] ∧ s' = s) ∨ ∃ rest, s.host = .idle :: rest ∧ s' = { s with host := rest }

/-! ### The host's script -/

/-- The action is one that the spec gives a meaning at an interface with base address `base`: an access is 32 bits wide,
4-byte aligned and inside the interface (R39, R68, R71). -/
def ActSupported (base : Nat) : HostAct → Prop
  | .idle => True
  | .read addr size => size = 4 ∧ addr % 4 = 0 ∧ base ≤ addr ∧ addr < base + 16384
  | .write addr size _ => size = 4 ∧ addr % 4 = 0 ∧ base ≤ addr ∧ addr < base + 16384
  | .hardReset => True

/-- The action changes nothing in the unit: the host waits or polls (R230). -/
def ActPolls : HostAct → Prop
  | .idle => True
  | .read _ _ => True
  | .write _ _ _ => False
  | .hardReset => False

/-! ### Host accesses -/

/-- The step at `s` if the host's next action is a 32-bit read at `off` from BASE. -/
def hostReads (s : State) (off : Nat) : Host.Outcome State Fault Refusal :=
  step { s with host := .read (s.base + off) 4 :: s.host }

/-- The step at `s` if the host's next action is a 32-bit write at `off` from BASE. -/
def hostWrites (s : State) (off : Nat) (w : Word) : Host.Outcome State Fault Refusal :=
  step { s with host := .write (s.base + off) 4 w :: s.host }

/-- The read returns data with property `p`. -/
def ReadGives (s : State) (off : Nat) (p : Word → Prop) : Prop := ∃ t, hostReads s off = .next t ∧ p t.hostData

/-- The registers at their reset values (R51), IRQ deasserted. The bits of U are not among them: V = 0 makes them
unreadable. -/
structure ResetRegisters (t : State) : Prop where
  valid : ∀ r, t.valid r = false
  e0 : t.readE 0 = true
  e1 : t.readE 1 = false
  e2 : t.readE 2 = false
  e3 : t.readE 3 = false
  pc : t.pc = 0
  run : t.run = .idle
  irqEn : t.irqEn = false
  startPc : t.startPc = 0
  faultCause : t.faultCause = .noFault
  faultPc : t.faultPc = 0
  faultInsn : t.faultInsn = 0
  irq : t.irq = false

/-! ### Agreement of two states -/

/-- The two states agree on everything that decides which instructions run (R207): the instance, IMEM, PC, the run
state, the fault record, START_PC, the valid bits and the host's actions. They may differ in every U, E and DMEM value. -/
structure SameControl (s t : State) : Prop where
  cfg : t.cfg = s.cfg
  imem : t.imem = s.imem
  powerOns : t.powerOns = s.powerOns
  pc : t.pc = s.pc
  run : t.run = s.run
  startPc : t.startPc = s.startPc
  v : t.v = s.v
  faultCause : t.faultCause = s.faultCause
  faultPc : t.faultPc = s.faultPc
  faultInsn : t.faultInsn = s.faultInsn
  host : t.host = s.host

/-- `s` with the bits of value register `r` replaced and its valid bit kept: for a register with V = 0, another of its
unspecified bit patterns (R51). -/
def State.withPattern (s : State) (r : UReg) (x : Value) : State := { s with u := s.u.set r x }

/-- The two outcomes are one and the same, `hostData` and the host's script included, or next states of which the second
is the first with the pattern of `r` replaced while `r` is still unwritten. -/
def SameUpToPattern (r : UReg) (x : Value) : Result → Result → Prop
  | .next t, .next t' => t' = t ∨ (t.valid r = false ∧ t' = t.withPattern r x)
  | .fault a, .fault b => a = b
  | .refused a, .refused b => a = b
  | .next _, .fault _ => False
  | .next _, .refused _ => False
  | .fault _, .next _ => False
  | .fault _, .refused _ => False
  | .refused _, .next _ => False
  | .refused _, .fault _ => False

/-- The two states agree on what a SOFT_RESET keeps: the memories and the instance (R241), and the model's own fields. -/
structure SameAcrossReset (s t : State) : Prop where
  cfg : t.cfg = s.cfg
  imem : t.imem = s.imem
  dmem : t.dmem = s.dmem
  powerOns : t.powerOns = s.powerOns
  draws : t.draws = s.draws
  host : t.host = s.host
  hostData : t.hostData = s.hostData

/-! ### Which causes an instruction raises (R211, R213) -/

/-- An ADD or SUB whose operands are one register (R102). -/
def Aliased : Instr → Prop
  | .add ua ub _ _ => ua = ub
  | .sub ua ub _ _ => ua = ub
  | _ => False

/-- The slot of an LDBE or STBE is outside DMEM (R97). -/
def SlotOutside (s : State) : Instr → Prop
  | .ldbe _ slot => s.dmemSlots ≤ slot
  | .stbe _ slot => s.dmemSlots ≤ slot
  | _ => False

/-- A RECIP whose precondition fails, on an instance that checks it (R152, R153). -/
def PrecondFails (s : State) : Instr → Prop
  | .recip ua ub =>
    s.cfg.recipCheck = true ∧
      ¬((s.readU ub).toNat % 2 = 1 ∧ (s.readU ua).toNat < (s.readU ub).toNat ∧
        ((s.readU ua).toNat = 0 ∨ Nat.gcd (s.readU ua).toNat (s.readU ub).toNat = 1))
  | _ => False

/-- The cause that R213 reports for a decoded instruction: ALIAS before UNINIT before DMEM_RANGE before RECIP_PRECOND,
and none if no check applies. -/
def ReportedCause (s : State) (i : Instr) (c : FaultCause) : Prop :=
  (Aliased i ∧ c = .aliased) ∨
  (¬Aliased i ∧ (∃ r ∈ readsU i, s.valid r = false) ∧ c = .uninit) ∨
  (¬Aliased i ∧ (∀ r ∈ readsU i, s.valid r = true) ∧ SlotOutside s i ∧ c = .dmemRange) ∨
  (¬Aliased i ∧ (∀ r ∈ readsU i, s.valid r = true) ∧ PrecondFails s i ∧ c = .recipPrecond)

/-- No check of the instruction applies: it executes normally. -/
def NoCause (s : State) (i : Instr) : Prop :=
  ¬Aliased i ∧ (∀ r ∈ readsU i, s.valid r = true) ∧ ¬SlotOutside s i ∧ ¬PrecondFails s i

/-! ### Rules of one shape, written once -/

/-- The rule of one CMP instruction (R170 to R175): with both registers written, E[PD] receives whether `rel` holds of
the unsigned magnitudes and nothing else changes; with one unwritten it faults UNINIT; its word has OP 0x08 and FN `fn`. -/
def CompareRule (mk : UReg → UReg → EReg → Instr) (fn : Nat) (rel : Nat → Nat → Prop) : Prop :=
  (∀ (s : State) (ua ub : UReg) (pd : EReg), s.valid ua = true → s.valid ub = true →
    ∃ t, exec (mk ua ub pd) s = .next t ∧
      (pd ≠ 0 → (t.readE pd = true ↔ rel (s.readU ua).toNat (s.readU ub).toNat)) ∧
      t.readE 0 = true ∧ t.pc = s.pc + 1 ∧ Frame [] [pd] 0 0 s t) ∧
  (∀ (s : State) (ua ub : UReg) (pd : EReg), (s.valid ua = false ∨ s.valid ub = false) →
    ∃ t, exec (mk ua ub pd) s = .next t ∧ EntersFault .uninit s.fetch s t) ∧
  (∀ (ua ub : UReg) (pd : EReg), IsWordOf (formatR 0x08 ua ub 0 pd 0 0 fn) (mk ua ub pd))

/-- The rule of PAND, POR or PXOR (R181 to R183): E[PD] receives `op` of the two sources as they were before, nothing
else changes, and it never faults; its word has OP 0x0A and FN `fn`. -/
def LogicRule (mk : EReg → EReg → EReg → Instr) (fn : Nat) (op : Bool → Bool → Bool) : Prop :=
  (∀ (s : State) (pd pa pb : EReg),
    ∃ t, exec (mk pd pa pb) s = .next t ∧
      (pd ≠ 0 → t.readE pd = op (s.readE pa) (s.readE pb)) ∧
      t.readE 0 = true ∧ t.pc = s.pc + 1 ∧ Frame [] [pd] 0 0 s t) ∧
  (∀ (pd pa pb : EReg), IsWordOf (formatR 0x0A 0 0 0 pd pa pb fn) (mk pd pa pb))

/-- The rule of LDC.ZERO or LDC.ONE (R194, R195): U[UA] receives the constant and becomes written, nothing else
changes, and it never faults; its word has OP 0x0B and FN `fn`. -/
def ConstantRule (mk : UReg → Instr) (fn : Nat) (value : Nat) : Prop :=
  (∀ (s : State) (ua : UReg),
    ∃ t, exec (mk ua) s = .next t ∧ (t.readU ua).toNat = value ∧ t.valid ua = true ∧
      t.pc = s.pc + 1 ∧ Frame [ua] [] 0 0 s t) ∧
  (∀ ua : UReg, IsWordOf (formatR 0x0B ua 0 0 0 0 0 fn) (mk ua))

/-- PAND, POR and PXOR (R184). -/
def IsLogic : Instr → Prop
  | .pand _ _ _ => True
  | .por _ _ _ => True
  | .pxor _ _ _ => True
  | _ => False

/-- Every field that R94 marks 0 for the word's OP is 0 (R100). RSV is bits 11:4, RSVM bits 22:16. -/
def ZeroFieldsAreZero (w : Word) : Prop :=
  let rsv := w.extractLsb' 4 8 = 0
  let op := fieldOP w
  if op = 0x01 ∨ op = 0x02 then fieldPD w = 0 ∧ fieldPA w = 0 ∧ fieldPB w = 0 ∧ rsv
  else if op = 0x03 ∨ op = 0x04 then fieldPA w = 0 ∧ fieldPB w = 0 ∧ rsv
  else if op = 0x05 ∨ op = 0x09 then fieldUB w = 0 ∧ fieldPE w = 0 ∧ fieldPA w = 0 ∧ fieldPB w = 0 ∧ rsv
  else if op = 0x06 then fieldUB w = 0 ∧ fieldPD w = 0 ∧ fieldPA w = 0 ∧ fieldPB w = 0 ∧ rsv
  else if op = 0x07 then fieldPE w = 0 ∧ fieldPD w = 0 ∧ fieldPA w = 0 ∧ fieldPB w = 0 ∧ rsv
  else if op = 0x08 then fieldPE w = 0 ∧ fieldPA w = 0 ∧ fieldPB w = 0 ∧ rsv
  else if op = 0x0A then fieldUA w = 0 ∧ fieldUB w = 0 ∧ fieldPE w = 0 ∧ rsv
  else if op = 0x0B then
    fieldUB w = 0 ∧ fieldPE w = 0 ∧ fieldPD w = 0 ∧ fieldPA w = 0 ∧ fieldPB w = 0 ∧ rsv
  else if op = 0x0C ∨ op = 0x0D then w.extractLsb' 16 7 = 0
  else
    fieldUA w = 0 ∧ fieldUB w = 0 ∧ fieldPE w = 0 ∧ fieldPD w = 0 ∧ fieldPA w = 0 ∧ fieldPB w = 0 ∧ rsv

end Sys2Proof.Machine
end

