-- ==== Sys2Proof/Certificates/Slice0/Obligations.lean ====
section
/-! DEFINITION. The statements about the model, for the provers. Each says which rule of spec/ it formalises. -/

open Sys2Proof Sys2Proof.Machine

/-! ### The instructions, family by family -/

/-- R120. REPLACE: the receiver takes the other value if E[PE] = 1 and keeps its own if E[PE] = 0, nothing else
changes; UNINIT if the other is unwritten, or if PE != 0 and the receiver is. -/
def Obligations.ReplaceSelectsByEnable : Prop :=
  (∀ (s : State) (ua ub : UReg) (pe : EReg), s.valid ub = true → (pe ≠ 0 → s.valid ua = true) →
    ∃ t, exec (.replace ua ub pe) s = .next t ∧
      t.readU ua = (if s.readE pe = true then s.readU ub else s.readU ua) ∧ t.valid ua = true ∧
      t.pc = s.pc + 1 ∧ Frame [ua] [] 0 0 s t) ∧
  (∀ (s : State) (ua ub : UReg) (pe : EReg), (s.valid ub = false ∨ (pe ≠ 0 ∧ s.valid ua = false)) →
    ∃ t, exec (.replace ua ub pe) s = .next t ∧ EntersFault .uninit s.fetch s t) ∧
  (∀ (ua ub : UReg) (pe : EReg), IsWordOf (formatR 0x01 ua ub pe 0 0 0 0) (.replace ua ub pe))

/-- R121. SWAP: the two values change places if E[PE] = 1 and stay if E[PE] = 0, nothing else changes; UNINIT if
either is unwritten, whatever the enable. -/
def Obligations.SwapExchangesByEnable : Prop :=
  (∀ (s : State) (ua ub : UReg) (pe : EReg), s.valid ua = true → s.valid ub = true →
    ∃ t, exec (.swap ua ub pe) s = .next t ∧
      t.readU ua = (if s.readE pe = true then s.readU ub else s.readU ua) ∧
      t.readU ub = (if s.readE pe = true then s.readU ua else s.readU ub) ∧
      t.valid ua = true ∧ t.valid ub = true ∧ t.pc = s.pc + 1 ∧ Frame [ua, ub] [] 0 0 s t) ∧
  (∀ (s : State) (ua ub : UReg) (pe : EReg), (s.valid ua = false ∨ s.valid ub = false) →
    ∃ t, exec (.swap ua ub pe) s = .next t ∧ EntersFault .uninit s.fetch s t) ∧
  (∀ (ua ub : UReg) (pe : EReg), IsWordOf (formatR 0x02 ua ub pe 0 0 0 0) (.swap ua ub pe))

/-- R130. ADD: U[UA] becomes the sum modulo 2^256 and E[PD] its carry, for the operand gated by the enable as it was
before; ALIAS if UA = UB; UNINIT if either is unwritten. -/
def Obligations.AddWritesSumAndCarry : Prop :=
  (∀ (s : State) (ua ub : UReg) (pe pd : EReg), ua ≠ ub → s.valid ua = true → s.valid ub = true →
    ∃ t, exec (.add ua ub pe pd) s = .next t ∧
      (t.readU ua).toNat = ((s.readU ua).toNat + (s.readE pe).toNat * (s.readU ub).toNat) % 2 ^ 256 ∧
      (pd ≠ 0 → (t.readE pd).toNat =
        ((s.readU ua).toNat + (s.readE pe).toNat * (s.readU ub).toNat) / 2 ^ 256) ∧
      t.readE 0 = true ∧ t.valid ua = true ∧ t.pc = s.pc + 1 ∧ Frame [ua] [pd] 0 0 s t) ∧
  (∀ (s : State) (ua ub : UReg) (pe pd : EReg), ua = ub →
    ∃ t, exec (.add ua ub pe pd) s = .next t ∧ EntersFault .aliased s.fetch s t) ∧
  (∀ (s : State) (ua ub : UReg) (pe pd : EReg), ua ≠ ub → (s.valid ua = false ∨ s.valid ub = false) →
    ∃ t, exec (.add ua ub pe pd) s = .next t ∧ EntersFault .uninit s.fetch s t) ∧
  (∀ (ua ub : UReg) (pe pd : EReg), IsWordOf (formatR 0x03 ua ub pe pd 0 0 0) (.add ua ub pe pd))

/-- R132. SUB: U[UA] becomes the difference modulo 2^256 and E[PD] whether the exact difference is negative, for the
operand gated by the enable; ALIAS if UA = UB; UNINIT if either is unwritten. -/
def Obligations.SubWritesDifferenceAndBorrow : Prop :=
  (∀ (s : State) (ua ub : UReg) (pe pd : EReg), ua ≠ ub → s.valid ua = true → s.valid ub = true →
    ∃ t, exec (.sub ua ub pe pd) s = .next t ∧
      ((t.readU ua).toNat : Int) =
        (((s.readU ua).toNat : Int) - ((s.readE pe).toNat : Int) * ((s.readU ub).toNat : Int)) % 2 ^ 256 ∧
      (pd ≠ 0 → (t.readE pd = true ↔
        ((s.readU ua).toNat : Int) - ((s.readE pe).toNat : Int) * ((s.readU ub).toNat : Int) < 0)) ∧
      t.readE 0 = true ∧ t.valid ua = true ∧ t.pc = s.pc + 1 ∧ Frame [ua] [pd] 0 0 s t) ∧
  (∀ (s : State) (ua ub : UReg) (pe pd : EReg), ua = ub →
    ∃ t, exec (.sub ua ub pe pd) s = .next t ∧ EntersFault .aliased s.fetch s t) ∧
  (∀ (s : State) (ua ub : UReg) (pe pd : EReg), ua ≠ ub → (s.valid ua = false ∨ s.valid ub = false) →
    ∃ t, exec (.sub ua ub pe pd) s = .next t ∧ EntersFault .uninit s.fetch s t) ∧
  (∀ (ua ub : UReg) (pe pd : EReg), IsWordOf (formatR 0x04 ua ub pe pd 0 0 0) (.sub ua ub pe pd))

/-- R140. SHL1: U[UA] is doubled modulo 2^256 and E[PD] receives its old bit 255; UNINIT if it is unwritten; a nonzero
PE is an illegal encoding. -/
def Obligations.ShiftLeftDoublesAndReportsTopBit : Prop :=
  (∀ (s : State) (ua : UReg) (pd : EReg), s.valid ua = true →
    ∃ t, exec (.shl1 ua pd) s = .next t ∧
      (t.readU ua).toNat = ((s.readU ua).toNat * 2) % 2 ^ 256 ∧
      (pd ≠ 0 → t.readE pd = (s.readU ua).getLsbD 255) ∧
      t.readE 0 = true ∧ t.valid ua = true ∧ t.pc = s.pc + 1 ∧ Frame [ua] [pd] 0 0 s t) ∧
  (∀ (s : State) (ua : UReg) (pd : EReg), s.valid ua = false →
    ∃ t, exec (.shl1 ua pd) s = .next t ∧ EntersFault .uninit s.fetch s t) ∧
  (∀ (ua : UReg) (pd : EReg), IsWordOf (formatR 0x05 ua 0 0 pd 0 0 0) (.shl1 ua pd)) ∧
  (∀ (ua : UReg) (pe pd : EReg), pe ≠ 0 → ∃ e, decode (formatR 0x05 ua 0 pe pd 0 0 0) = .error e)

/-- R141. SHR1: U[UA] is halved, rounding down, if E[PE] = 1 and kept if E[PE] = 0; no predicate is written; UNINIT if
it is unwritten, whatever the enable. -/
def Obligations.ShiftRightHalvesByEnable : Prop :=
  (∀ (s : State) (ua : UReg) (pe : EReg), s.valid ua = true →
    ∃ t, exec (.shr1 ua pe) s = .next t ∧
      (t.readU ua).toNat = (if s.readE pe = true then (s.readU ua).toNat / 2 else (s.readU ua).toNat) ∧
      t.valid ua = true ∧ t.pc = s.pc + 1 ∧ Frame [ua] [] 0 0 s t) ∧
  (∀ (s : State) (ua : UReg) (pe : EReg), s.valid ua = false →
    ∃ t, exec (.shr1 ua pe) s = .next t ∧ EntersFault .uninit s.fetch s t) ∧
  (∀ (ua : UReg) (pe : EReg), IsWordOf (formatR 0x06 ua 0 pe 0 0 0 0) (.shr1 ua pe))

/-- R150, R152, R154. RECIP, every case. With t = U[UA] and m = U[UB] written: if m is odd, t < m, and t = 0 or t and
m are coprime, U[UA] becomes 0 for t = 0 and else the r below m with t * r = 1 modulo m, and nothing else changes; if
not, RECIP_CHECK = 1 faults RECIP_PRECOND, and RECIP_CHECK = 0 writes some 256-bit value, of which nothing is said, and
changes nothing else of the unit. UA = UB always violates t < m. -/
def Obligations.RecipComputesModularInverse : Prop :=
  (∀ (s : State) (ua ub : UReg), s.valid ua = true → s.valid ub = true →
    (s.readU ub).toNat % 2 = 1 → (s.readU ua).toNat < (s.readU ub).toNat →
    ((s.readU ua).toNat = 0 ∨ Nat.gcd (s.readU ua).toNat (s.readU ub).toNat = 1) →
    ∃ t, exec (.recip ua ub) s = .next t ∧
      ((s.readU ua).toNat = 0 → (t.readU ua).toNat = 0) ∧
      ((s.readU ua).toNat ≠ 0 → ((s.readU ua).toNat * (t.readU ua).toNat) % (s.readU ub).toNat = 1) ∧
      (t.readU ua).toNat < (s.readU ub).toNat ∧
      t.valid ua = true ∧ t.pc = s.pc + 1 ∧ Frame [ua] [] 0 0 s t) ∧
  (∀ (s : State) (ua ub : UReg), s.valid ua = true → s.valid ub = true →
    ¬((s.readU ub).toNat % 2 = 1 ∧ (s.readU ua).toNat < (s.readU ub).toNat ∧
      ((s.readU ua).toNat = 0 ∨ Nat.gcd (s.readU ua).toNat (s.readU ub).toNat = 1)) →
    ∃ t, exec (.recip ua ub) s = .next t ∧
      (s.cfg.recipCheck = true → EntersFault .recipPrecond s.fetch s t) ∧
      (s.cfg.recipCheck = false →
        t.valid ua = true ∧ t.pc = s.pc + 1 ∧
        KeepsU [ua] s t ∧ KeepsE [] s t ∧ KeepsDmemOutside 0 0 s t ∧ KeepsImem s t ∧ KeepsRun s t ∧
        KeepsHostSide s t)) ∧
  (∀ (s : State) (ua : UReg), s.valid ua = true → s.cfg.recipCheck = true →
    ∃ t, exec (.recip ua ua) s = .next t ∧ EntersFault .recipPrecond s.fetch s t) ∧
  (∀ (s : State) (ua ub : UReg), (s.valid ua = false ∨ s.valid ub = false) →
    ∃ t, exec (.recip ua ub) s = .next t ∧ EntersFault .uninit s.fetch s t) ∧
  (∀ (ua ub : UReg), IsWordOf (formatR 0x07 ua ub 0 0 0 0 0) (.recip ua ub))

/-- R151. RECIP of 0 with any odd modulus gives 0 and never faults, on an instance of either RECIP_CHECK. -/
def Obligations.RecipOfZeroIsZero : Prop :=
  ∀ (s : State) (ua ub : UReg), s.valid ua = true → s.valid ub = true →
    s.readU ua = 0 → (s.readU ub).toNat % 2 = 1 →
    ∃ t, exec (.recip ua ub) s = .next t ∧ t.readU ua = 0 ∧ t.valid ua = true ∧ t.pc = s.pc + 1 ∧
      Frame [ua] [] 0 0 s t

/-- R170 to R175. The six comparisons of unsigned magnitudes. -/
def Obligations.ComparesWriteUnsignedRelation : Prop :=
  CompareRule .cmpEq 0 (fun a b => a = b) ∧ CompareRule .cmpNe 1 (fun a b => a ≠ b) ∧
  CompareRule .cmpLt 2 (fun a b => a < b) ∧ CompareRule .cmpLe 3 (fun a b => a ≤ b) ∧
  CompareRule .cmpGt 4 (fun a b => a > b) ∧ CompareRule .cmpGe 5 (fun a b => a ≥ b)

/-- R180. PAR: E[PD] receives bit 0 of U[UA]; UNINIT if it is unwritten. -/
def Obligations.ParityWritesBitZero : Prop :=
  (∀ (s : State) (ua : UReg) (pd : EReg), s.valid ua = true →
    ∃ t, exec (.par ua pd) s = .next t ∧ (pd ≠ 0 → (t.readE pd).toNat = (s.readU ua).toNat % 2) ∧
      t.readE 0 = true ∧ t.pc = s.pc + 1 ∧ Frame [] [pd] 0 0 s t) ∧
  (∀ (s : State) (ua : UReg) (pd : EReg), s.valid ua = false →
    ∃ t, exec (.par ua pd) s = .next t ∧ EntersFault .uninit s.fetch s t) ∧
  (∀ (ua : UReg) (pd : EReg), IsWordOf (formatR 0x09 ua 0 0 pd 0 0 0) (.par ua pd))

/-- R181 to R183. PAND, POR and PXOR. -/
def Obligations.PredicateLogicWritesResult : Prop :=
  LogicRule .pand 0 (fun a b => a && b) ∧ LogicRule .por 1 (fun a b => a || b) ∧
  LogicRule .pxor 2 (fun a b => a != b)

/-- R184. Every two-input Boolean function of E[PA] and E[PB], written to a destination other than E0 and the sources,
is at most two predicate instructions; yEven = NOT parity(y) is a PAR and a PXOR, and doswap = parity(y) AND [x > y] a
PAR, a CMP and a PAND. -/
def Obligations.TwoPredicateInstructionsSuffice : Prop :=
  (∀ (f : Bool → Bool → Bool) (pd pa pb : EReg), pd ≠ 0 → pd ≠ pa → pd ≠ pb →
    ∃ is : List Instr, is.length ≤ 2 ∧ (∀ i ∈ is, IsLogic i) ∧
      ∀ s : State, ∃ t, execAll is s = .next t ∧ t.readE pd = f (s.readE pa) (s.readE pb)) ∧
  (∀ (s : State) (y : UReg) (d : EReg), d ≠ 0 → s.valid y = true →
    ∃ t, execAll [.par y d, .pxor d d 0] s = .next t ∧ (t.readE d = true ↔ (s.readU y).toNat % 2 = 0)) ∧
  (∀ (s : State) (x y : UReg) (d e : EReg), d ≠ 0 → e ≠ 0 → d ≠ e → s.valid x = true → s.valid y = true →
    ∃ t, execAll [.par y d, .cmpGt x y e, .pand d d e] s = .next t ∧
      (t.readE d = true ↔ ((s.readU y).toNat % 2 = 1 ∧ (s.readU x).toNat > (s.readU y).toNat)))

/-- R62, R190. LDBE: byte k of the slot becomes bits 255-8k to 248-8k of U[UA]; DMEM_RANGE if the slot is outside DMEM;
never UNINIT. -/
def Obligations.LoadReadsBigEndianSlot : Prop :=
  (∀ (s : State) (ua : UReg) (slot : Nat), slot < s.dmemSlots →
    ∃ t, exec (.ldbe ua slot) s = .next t ∧
      (∀ k, k < 32 → (t.readU ua).extractLsb' (248 - 8 * k) 8 = s.dmemByte (slotAddress slot + k)) ∧
      t.valid ua = true ∧ t.pc = s.pc + 1 ∧ Frame [ua] [] 0 0 s t) ∧
  (∀ (s : State) (ua : UReg) (slot : Nat), s.dmemSlots ≤ slot →
    ∃ t, exec (.ldbe ua slot) s = .next t ∧ EntersFault .dmemRange s.fetch s t) ∧
  (∀ (ua : UReg) (slot : Nat), slot < 65536 → IsWordOf (formatM 0x0C ua slot) (.ldbe ua slot))

/-- R63, R191. STBE: byte k of the slot becomes bits 255-8k to 248-8k of U[UA], which are bits 31-8(k mod 4) to
24-8(k mod 4) of its word 7-floor(k/4), and no byte outside the slot changes; UNINIT before DMEM_RANGE, and a faulting
STBE writes no byte. -/
def Obligations.StoreWritesBigEndianSlot : Prop :=
  (∀ (s : State) (ua : UReg) (slot : Nat), s.valid ua = true → slot < s.dmemSlots →
    ∃ t, exec (.stbe ua slot) s = .next t ∧
      (∀ k, k < 32 → t.dmemByte (slotAddress slot + k) = (s.readU ua).extractLsb' (248 - 8 * k) 8 ∧
        t.dmemByte (slotAddress slot + k) =
          (valueWord (s.readU ua) (7 - k / 4)).extractLsb' (24 - 8 * (k % 4)) 8) ∧
      t.pc = s.pc + 1 ∧ Frame [] [] (slotAddress slot) 32 s t) ∧
  (∀ (s : State) (ua : UReg) (slot : Nat), s.valid ua = false →
    ∃ t, exec (.stbe ua slot) s = .next t ∧ EntersFault .uninit s.fetch s t) ∧
  (∀ (s : State) (ua : UReg) (slot : Nat), s.valid ua = true → s.dmemSlots ≤ slot →
    ∃ t, exec (.stbe ua slot) s = .next t ∧ EntersFault .dmemRange s.fetch s t) ∧
  (∀ (ua : UReg) (slot : Nat), slot < 65536 → IsWordOf (formatM 0x0D ua slot) (.stbe ua slot))

/-- R193. LDBE then STBE leaves the slot unchanged; STBE then LDBE copies the register. -/
def Obligations.SlotRoundTrips : Prop :=
  (∀ (s : State) (i : UReg) (slot : Nat), slot < s.dmemSlots →
    ∃ t, execAll [.ldbe i slot, .stbe i slot] s = .next t ∧ ∀ a, t.dmemByte a = s.dmemByte a) ∧
  (∀ (s : State) (i j : UReg) (slot : Nat), s.valid i = true → slot < s.dmemSlots →
    ∃ t, execAll [.stbe i slot, .ldbe j slot] s = .next t ∧ t.readU j = s.readU i)

/-- R194, R195. LDC.ZERO and LDC.ONE. -/
def Obligations.ConstantsAreLoaded : Prop := ConstantRule .ldcZero 0 0 ∧ ConstantRule .ldcOne 1 1

/-- R203. HALT: the run state becomes HALTED, PC keeps the HALT's own index, nothing else changes, and IRQ is asserted
if IRQ_EN = 1; its word is 0xFC000000, and that with any of bits 25:0 set is illegal. -/
def Obligations.HaltEndsTheRun : Prop :=
  (∀ s : State, ∃ t, exec .halt s = .next t ∧ t.run = .halted ∧ t.pc = s.pc ∧ (s.irqEn = true → t.irq = true) ∧
    t.faultCause = s.faultCause ∧ t.faultPc = s.faultPc ∧ t.faultInsn = s.faultInsn ∧ t.draws = s.draws ∧
    KeepsU [] s t ∧ KeepsE [] s t ∧ KeepsDmemOutside 0 0 s t ∧ KeepsImem s t ∧ KeepsHostSide s t) ∧
  IsWordOf 0xFC000000 .halt ∧
  (∀ w : Word, fieldOP w = 0x3F → w ≠ 0xFC000000 → ∃ e, decode w = .error e)

/-- R143. SHL1 then SHR1 gives back a if a < 2^255 and else a - 2^255; SHR1 then SHL1 gives back a if a is even and
else a - 1, and the out-bit of that SHL1 is 0. -/
def Obligations.ShiftRoundTrips : Prop :=
  (∀ (s : State) (ua : UReg) (pd : EReg), s.valid ua = true →
    ∃ t, execAll [.shl1 ua pd, .shr1 ua 0] s = .next t ∧
      (t.readU ua).toNat =
        (if (s.readU ua).toNat < 2 ^ 255 then (s.readU ua).toNat else (s.readU ua).toNat - 2 ^ 255) ∧
      (pd ≠ 0 → (t.readE pd = false ↔ (s.readU ua).toNat < 2 ^ 255))) ∧
  (∀ (s : State) (ua : UReg) (pd : EReg), s.valid ua = true →
    ∃ t, execAll [.shr1 ua 0, .shl1 ua pd] s = .next t ∧
      (t.readU ua).toNat =
        (if (s.readU ua).toNat % 2 = 0 then (s.readU ua).toNat else (s.readU ua).toNat - 1) ∧
      (pd ≠ 0 → t.readE pd = false))

/-! ### All instructions at once -/

/-- R31, R211 to R213 for a decoded instruction: if a check applies, the first in the order ALIAS, UNINIT, DMEM_RANGE,
RECIP_PRECOND is reported and nothing is committed; if none does, the instruction completes: PC advances by 1 (HALT's
stays), no fault is recorded, and every register it writes is written. -/
def Obligations.InstructionsFaultOrComplete : Prop :=
  (∀ (i : Instr) (s : State) (c : FaultCause), ReportedCause s i c →
    ∃ t, exec i s = .next t ∧ EntersFault c s.fetch s t) ∧
  (∀ (i : Instr) (s : State), NoCause s i →
    ∃ t, exec i s = .next t ∧ t.pc = (if i = .halt then s.pc else s.pc + 1) ∧
      t.run = (if i = .halt then .halted else s.run) ∧
      t.faultCause = s.faultCause ∧ t.faultPc = s.faultPc ∧ t.faultInsn = s.faultInsn ∧
      ∀ r ∈ writesU i, t.valid r = true)

/-- No instruction ever stops the machine: every one answers a next state from every state (R212, R215). -/
def Obligations.EveryInstructionAnswersNext : Prop := ∀ (i : Instr) (s : State), ∃ t, exec i s = .next t

/-- R24, R27, R65. The frame of every instruction: it changes no value register but those of its row of R24, no
predicate register but its PD, no IMEM word, and no DMEM byte but those of an STBE's slot. -/
def Obligations.EveryInstructionKeepsItsFrame : Prop :=
  ∀ (i : Instr) (s t : State), exec i s = .next t →
    KeepsU (writesU i) s t ∧ KeepsE (writesE i) s t ∧ KeepsImem s t ∧ KeepsHostSide s t ∧
    (match i with
      | .stbe _ slot => KeepsDmemOutside (slotAddress slot) 32 s t
      | _ => KeepsDmemOutside 0 0 s t)

/-- R78. No instruction writes IMEM, so no program can modify itself: the sequencer's turn leaves IMEM as it is. -/
def Obligations.SequencerNeverWritesImem : Prop :=
  ∀ s s' t : State, SequencerTurn s s' → step s = .next t → t.imem = s.imem ∧ KeepsImem s t

/-- R51, R23. An unspecified U value is never observable, by an instruction or by the host: another bit pattern in a
register with V = 0 gives the same outcome, up to that register's own pattern while it is still unwritten. This holds of
every instruction, completing and of the same next state but for that pattern, and of every step, whatever the host's
script and the run state. That a reset makes the two states equal is the model's choice of patterns there (log 3). -/
def Obligations.UnwrittenPatternIsUnobservable : Prop :=
  (∀ (i : Instr) (s : State) (r : UReg) (x : Value), s.valid r = false →
    ∃ t t', exec i s = .next t ∧ exec i (s.withPattern r x) = .next t' ∧
      (t' = t ∨ (t.valid r = false ∧ t' = t.withPattern r x))) ∧
  (∀ (s : State) (r : UReg) (x : Value), s.valid r = false →
    SameUpToPattern r x (step s) (step (s.withPattern r x)))

/-! ### Decoding -/

/-- R90 to R96. Decoding the word of a well-formed instruction gives it back, with every operand. -/
def Obligations.DecodeOfEncode : Prop := ∀ i : Instr, i.wf = true → decode (encode i) = .ok i

/-- R106. A word that decodes is the word of a well-formed instruction, and of that one: no bit is dropped. -/
def Obligations.EncodeOfDecode : Prop :=
  ∀ (w : Word) (i : Instr), decode w = .ok i → i.wf = true ∧ encode i = w

/-- R94. No two rows of the opcode table match one word. -/
def Obligations.OpcodeRowsNeverOverlap : Prop :=
  ∀ (w : Word) (r q : Row), r ∈ opcodeTable → q ∈ opcodeTable → r.fits w = true → q.fits w = true →
    r.mnemonic = q.mnemonic

/-- R99 to R101. A word is illegal exactly when its OP is reserved, or a field that R94 marks 0 is not 0, or its FN is
reserved; executing one raises ILLEGAL. -/
def Obligations.IllegalWordsAreTheReservedOnes : Prop :=
  (∀ w : Word, (∃ e, decode w = .error e) ↔
    (reservedOp (fieldOP w) = true ∨ ¬ZeroFieldsAreZero w ∨ reservedFn (fieldOP w) (fieldFN w) = true)) ∧
  (∀ s s' : State, SequencerTurn s s' → s.run = .running → s.pc < s.imemWords →
    reservedOp (fieldOP s.fetch) = true ∨ ¬ZeroFieldsAreZero s.fetch ∨
      reservedFn (fieldOP s.fetch) (fieldFN s.fetch) = true →
    ∃ t, step s = .next t ∧ EntersFault .illegal s.fetch s' t)

/-- Words written out from the field layout of R91 and R92 decode to the instructions they stand for, one a family
(ENC and L2 vectors of 95_test_vectors.md). -/
def Obligations.SpecWordsDecode : Prop :=
  decode 0x04A40000 = .ok (.replace 1 2 1) ∧ decode 0x08180000 = .ok (.swap 0 1 2) ∧
  decode 0x0CA30000 = .ok (.add 1 2 0 3) ∧ decode 0x10AD0000 = .ok (.sub 1 2 3 1) ∧
  decode 0x15810000 = .ok (.shl1 3 1) ∧ decode 0x19080000 = .ok (.shr1 2 2) ∧
  decode 0x1C100000 = .ok (.recip 0 1) ∧ decode 0x20110005 = .ok (.cmpGe 0 1 1) ∧
  decode 0x24810000 = .ok (.par 1 1) ∧ decode 0x28036002 = .ok (.pxor 3 1 2) ∧
  decode 0x2F000001 = .ok (.ldcOne 6) ∧ decode 0x3000FFFF = .ok (.ldbe 0 65535) ∧
  decode 0x3780FFFF = .ok (.stbe 7 65535) ∧ decode 0xFC000000 = .ok .halt ∧
  decode 0x00000000 = .error .reservedOp ∧ decode 0x20110006 = .error .reservedFn ∧
  decode 0x04A50000 = .error .fieldNotZero

/-- R109. The expansions and the words of the pseudo-instructions; PCLR E0 and PSET E0 do nothing. -/
def Obligations.PseudoInstructionWords : Prop :=
  (∀ ua ub : UReg, pseudoMov ua ub = .replace ua ub 0) ∧ pseudoNop = .pand 0 0 0 ∧
  (∀ d : EReg, pseudoPset d = .pand d 0 0 ∧ pseudoPclr d = .pxor d d d) ∧
  (∀ a d : EReg, pseudoPnot a d = .pxor d a 0 ∧ pseudoPmov a d = .pand d a 0) ∧
  (∀ s : State, ∃ t, exec (pseudoPclr 0) s = .next t ∧ t.pc = s.pc + 1 ∧ Frame [] [] 0 0 s t) ∧
  (∀ s : State, ∃ t, exec (pseudoPset 0) s = .next t ∧ t.pc = s.pc + 1 ∧ Frame [] [] 0 0 s t) ∧
  (∀ ua ub : UReg, (encode (pseudoMov ua ub)).toNat = 0x04000000 + ua.val * 2 ^ 23 + ub.val * 2 ^ 20) ∧
  (encode pseudoNop).toNat = 0x28000000 ∧
  (∀ d : EReg, (encode (pseudoPset d)).toNat = 0x28000000 + d.val * 2 ^ 16) ∧
  (∀ d : EReg, (encode (pseudoPclr d)).toNat =
    0x28000002 + d.val * 2 ^ 16 + d.val * 2 ^ 14 + d.val * 2 ^ 12) ∧
  (∀ a d : EReg, (encode (pseudoPnot a d)).toNat = 0x28000002 + d.val * 2 ^ 16 + a.val * 2 ^ 14) ∧
  (∀ a d : EReg, (encode (pseudoPmov a d)).toNat = 0x28000000 + d.val * 2 ^ 16 + a.val * 2 ^ 14)

/-! ### The execution cycle -/

/-- R202. When the word at PC decodes to an instruction, the sequencer's turn runs exactly it: `step` adds nothing
around `exec` but the host's action of none that it consumes. -/
def Obligations.StepRunsDecodedInstruction : Prop :=
  ∀ (s s' : State) (i : Instr), SequencerTurn s s' → s.run = .running → s.pc < s.imemWords →
    decode s.fetch = .ok i → step s = exec i s'

/-- R213. The cause that a step reports is the first in the order PC_RANGE, ILLEGAL, ALIAS, UNINIT, DMEM_RANGE,
RECIP_PRECOND, with the record of R211: the fetched word, or 0 for PC_RANGE. -/
def Obligations.StepReportsFirstCause : Prop :=
  ∀ s s' : State, SequencerTurn s s' → s.run = .running →
    (s.imemWords ≤ s.pc → ∃ t, step s = .next t ∧ EntersFault .pcRange 0 s' t) ∧
    (∀ e, s.pc < s.imemWords → decode s.fetch = .error e →
      ∃ t, step s = .next t ∧ EntersFault .illegal s.fetch s' t) ∧
    (∀ i c, s.pc < s.imemWords → decode s.fetch = .ok i → ReportedCause s i c →
      ∃ t, step s = .next t ∧ EntersFault c s.fetch s' t)

/-- R229. In the run states IDLE, HALTED and FAULTED the sequencer executes nothing and the unit keeps all its state. -/
def Obligations.StoppedUnitKeepsItsState : Prop :=
  ∀ s s' : State, SequencerTurn s s' → s.run ≠ .running → step s = .next s'

/-- R33, R200, R201. RUNNING is entered only by a host write of START without SOFT_RESET to CTRL, and then at START_PC
with the fault record cleared. -/
def Obligations.OnlyStartEntersRunning : Prop :=
  ∀ s t : State, s.run ≠ .running → step s = .next t → t.run = .running →
    ∃ (w : Word) (rest : List HostAct), s.host = .write (s.base + 0x010) 4 w :: rest ∧
      w.getLsbD 0 = true ∧ w.getLsbD 1 = false ∧
      t.pc = s.startPc ∧ t.faultCause = .noFault ∧ t.faultPc = 0 ∧ t.faultInsn = 0

/-- R200. While a run goes on, PC changes only by the advance of R31: a step of RUNNING that stays RUNNING leaves PC as
it was (a host action) or adds 1 (an instruction). -/
def Obligations.RunningPcOnlyAdvances : Prop :=
  ∀ s t : State, s.run = .running → step s = .next t → t.run = .running →
    (∀ s', SequencerTurn s s' → t.pc = s.pc + 1) ∧ ((¬∃ s', SequencerTurn s s') → t.pc = s.pc)

/-- R205. Every run ends, whatever the host does meanwhile: within IMEM_WORDS - PC + 1 steps, and one more for each
action of the host's script, a RUNNING unit leaves RUNNING; and if the host only waits and polls, or does nothing at
all, it reaches HALTED or FAULTED. The script holds only accesses that the spec gives a meaning. -/
def Obligations.EveryRunEnds : Prop :=
  ∀ s : State, s.run = .running → s.pc ≤ s.imemWords → (∀ a ∈ s.host, ActSupported s.base a) →
    (∃ k t, k ≤ s.imemWords - s.pc + 1 + s.host.length ∧ runSteps k s = .next t ∧ Ended t) ∧
    ((∀ a ∈ s.host, ActPolls a) →
      ∃ k t, k ≤ s.imemWords - s.pc + 1 + s.host.length ∧ runSteps k s = .next t ∧
        (t.run = .halted ∨ t.run = .faulted))

/-- R207. Control flow is data-independent: from two states that agree on the program, the run record and the valid
bits, whatever their U, E and DMEM values, any number of steps with no host action leaves them agreeing, unless one of
them has faulted with RECIP_PRECOND. -/
def Obligations.ControlFlowIgnoresData : Prop :=
  ∀ (n : Nat) (s t : State), SameControl s t → s.host = [] →
    ∃ s' t', runSteps n s = .next s' ∧ runSteps n t = .next t' ∧
      (SameControl s' t' ∨ s'.faultCause = .recipPrecond ∨ t'.faultCause = .recipPrecond)

/-! ### Invariants and resets -/

/-- Every step from a legal state that answers a next state leaves a legal state. -/
def Obligations.StepKeepsLegal : Prop := ∀ s t : State, Legal s → step s = .next t → Legal t

/-- The reset state is legal. -/
def Obligations.ResetIsLegal : Prop := Legal State.reset

/-- R10. The parameters of the instance never change. -/
def Obligations.StepKeepsInstance : Prop := ∀ s t : State, step s = .next t → t.cfg = s.cfg

/-- The reset state: every register at the value R51 gives and the unit IDLE. That the memories list nothing, so that
every byte and word is a free value, is the model's form of R80 (log 1). -/
def Obligations.ResetStateValues : Prop :=
  ResetRegisters State.reset ∧ State.reset.regStatus = 0x00000100 ∧ State.reset.imem = [] ∧ State.reset.dmem = []

/-- R240, R241. A hardware reset and a SOFT_RESET (with IRQ_EN = 0 in the word; START does not matter) reach the reset
values from every state. SOFT_RESET keeps both memories; after a hardware reset they hold the unknown values of a new
power-on, which are the model's free values of the next power-on number (log 1, 2). What SOFT_RESET does with IRQ_EN = 1 in its word is the model's choice (log 13). -/
def Obligations.ResetsReachResetValues : Prop :=
  (∀ (s : State) (w : Word), w.getLsbD 1 = true → w.getLsbD 2 = false →
    ∃ t, hostWrites s 0x010 w = .next t ∧ ResetRegisters t ∧ t.cfg = s.cfg ∧ KeepsDmemOutside 0 0 s t ∧
      KeepsImem s t ∧ t.imem = s.imem ∧ t.dmem = s.dmem ∧ t.powerOns = s.powerOns ∧ t.host = s.host) ∧
  (∀ s : State, ∃ t, step { s with host := .hardReset :: s.host } = .next t ∧ ResetRegisters t ∧ t.cfg = s.cfg ∧
    t.powerOns = s.powerOns + 1 ∧
    (∀ a, t.dmemByte a = Config.dmemInit t.powerOns a) ∧ (∀ i, t.imemWord i = Config.imemInit t.powerOns i) ∧
    t.host = s.host)

/-- A SOFT_RESET leaves no trace of an earlier run's U, E or run state: two states that agree on the memories and the
instance are the same state after it (R241; the U patterns after reset are the model's choice, log 3, as is IRQ_EN where
the word sets it, log 13). -/
def Obligations.SoftResetErasesSecrets : Prop :=
  ∀ (s t : State) (w : Word), SameAcrossReset s t → w.getLsbD 1 = true →
    ∃ r, hostWrites s 0x010 w = .next r ∧ hostWrites t 0x010 w = .next r

/-! ### The host interface -/

/-- R201. START: while not RUNNING the fault record is cleared, PC is loaded from START_PC and the unit is RUNNING, with
U, V, E, DMEM and IMEM unchanged; while RUNNING it is ignored (the write's IRQ_EN bit is stored in both cases, R42). -/
def Obligations.StartBeginsARun : Prop :=
  (∀ (s : State) (w : Word), w.getLsbD 0 = true → w.getLsbD 1 = false → s.run ≠ .running →
    ∃ t, hostWrites s 0x010 w = .next t ∧ t.run = .running ∧ t.pc = s.startPc ∧ t.faultCause = .noFault ∧
      t.faultPc = 0 ∧ t.faultInsn = 0 ∧ t.irqEn = w.getLsbD 2 ∧ t.irq = false ∧ t.cfg = s.cfg ∧
      t.startPc = s.startPc ∧ KeepsU [] s t ∧ KeepsE [] s t ∧ KeepsDmemOutside 0 0 s t ∧ KeepsImem s t) ∧
  (∀ (s : State) (w : Word), w.getLsbD 1 = false → s.run = .running →
    hostWrites s 0x010 w = .next { s with irqEn := w.getLsbD 2 })

/-- R43. STATUS reads 0x00000100 after reset; BUSY, DONE and FAULT say the run state, bits 8 to 11 are E0 to E3, every other bit reads 0; writing 1
to DONE while HALTED or to FAULT while FAULTED goes to IDLE and changes nothing else; any other write changes nothing. -/
def Obligations.StatusReadsAndClears : Prop :=
  (∀ s : State, ReadGives s 0x014 (fun w =>
    (w.getLsbD 0 = true ↔ s.run = .running) ∧ (w.getLsbD 1 = true ↔ s.run = .halted) ∧
    (w.getLsbD 2 = true ↔ s.run = .faulted) ∧ w.getLsbD 8 = true ∧ w.getLsbD 9 = s.readE 1 ∧
    w.getLsbD 10 = s.readE 2 ∧ w.getLsbD 11 = s.readE 3 ∧
    ∀ k, (3 ≤ k ∧ k ≤ 7) ∨ 12 ≤ k → w.getLsbD k = false)) ∧
  (∀ (s : State) (w : Word),
    (s.run = .halted ∧ w.getLsbD 1 = true) ∨ (s.run = .faulted ∧ w.getLsbD 2 = true) →
    hostWrites s 0x014 w = .next { s with run := .idle }) ∧
  (∀ (s : State) (w : Word),
    ¬((s.run = .halted ∧ w.getLsbD 1 = true) ∨ (s.run = .faulted ∧ w.getLsbD 2 = true)) →
    hostWrites s 0x014 w = .next s) ∧
  ReadGives State.reset 0x014 (fun w => w = 0x00000100)

/-- R44. START_PC: a write while not RUNNING stores the low IMEM_LOG2 bits, a write while RUNNING is ignored, and a read
returns the stored index, on every instance of R9; it is 0 after reset, and every step keeps it below IMEM_WORDS. -/
def Obligations.StartPcHoldsAnIndex : Prop :=
  (∀ (s : State) (w : Word), s.run ≠ .running →
    hostWrites s 0x018 w = .next { s with startPc := w.toNat % 2 ^ s.cfg.imemLog2 }) ∧
  (∀ (s : State) (w : Word), s.run = .running → hostWrites s 0x018 w = .next s) ∧
  (∀ s : State, s.cfg.wf = true → s.startPc < s.imemWords →
    ReadGives s 0x018 (fun w => w.toNat = s.startPc)) ∧
  State.reset.startPc = 0 ∧ State.reset.startPc < State.reset.imemWords ∧
  (∀ s t : State, s.startPc < s.imemWords → step s = .next t → t.startPc < t.imemWords)

/-- R40, R41. ID, VERSION and CONFIG. -/
def Obligations.IdentityRegistersRead : Prop :=
  ∀ s : State, s.cfg.wf = true →
    ReadGives s 0x000 (fun w => w = 0x55323536) ∧ ReadGives s 0x004 (fun w => w = 0x00000007) ∧
    ReadGives s 0x008 (fun w => (w.extractLsb' 0 4).toNat = s.cfg.imemLog2 ∧
      (w.extractLsb' 4 4).toNat = s.cfg.dmemSlotsLog2 ∧ w.getLsbD 8 = s.cfg.recipCheck ∧
      w.extractLsb' 9 23 = 0)

/-- R46 to R48. FAULT_CAUSE, FAULT_PC and FAULT_INSN return the record of the last fault, by the codes of R211. -/
def Obligations.FaultRegistersReadBack : Prop :=
  ∀ s : State, s.cfg.wf = true → s.faultPc ≤ s.imemWords →
    ReadGives s 0x020 (fun w => w.toNat = (match s.faultCause with
      | .noFault => 0 | .illegal => 1 | .aliased => 2 | .uninit => 3
      | .dmemRange => 4 | .recipPrecond => 5 | .pcRange => 6)) ∧
    ReadGives s 0x024 (fun w => w.toNat = s.faultPc) ∧ ReadGives s 0x028 (fun w => w = s.faultInsn)

/-- R45. PC: while not RUNNING the host reads the program counter; while RUNNING it reads some index that the run has
reached, from START_PC to PC (for every value of the free choice, log 7). -/
def Obligations.PcReadIsAnIndexReached : Prop :=
  ∀ s : State, s.cfg.wf = true → s.pc ≤ s.imemWords →
    (s.run ≠ .running → ReadGives s 0x01C (fun w => w.toNat = s.pc)) ∧
    (s.run = .running → s.startPc ≤ s.pc → ReadGives s 0x01C (fun w => s.startPc ≤ w.toNat ∧ w.toNat ≤ s.pc))

/-- R49. Reserved offsets read 0 and ignore writes; so do the parts of the windows beyond the memories (R71), and the
read-only registers ignore writes (R38). -/
def Obligations.ReservedOffsetsAreInert : Prop :=
  ∀ (s : State) (off : Nat) (w : Word), off % 4 = 0 →
    (off = 0x00C ∨ (0x02C ≤ off ∧ off < 0x1000) ∨ (0x1000 + s.dmemBytes ≤ off ∧ off < 0x2000) ∨
      (0x2000 + 4 * s.imemWords ≤ off ∧ off < 0x3000) ∨ (0x3000 ≤ off ∧ off < 0x4000) →
        ReadGives s off (fun d => d = 0) ∧ hostWrites s off w = .next s) ∧
    (off = 0x000 ∨ off = 0x004 ∨ off = 0x008 ∨ off = 0x01C ∨ off = 0x020 ∨ off = 0x024 ∨ off = 0x028 →
        hostWrites s off w = .next s)

/-- R64. The windows while not RUNNING: a DMEM word holds four bytes, the lowest address in bits 31:24, so the eight
words of a slot in order are its value; an IMEM word is the instruction word. A write stores exactly those bytes or that
word. -/
def Obligations.WindowsReadAndWriteTheMemories : Prop :=
  (∀ (s : State) (b : Nat), s.cfg.wf = true → s.run ≠ .running → b < s.dmemBytes → b % 4 = 0 →
    ReadGives s (0x1000 + b) (fun d => ∀ k, k < 4 → d.extractLsb' (24 - 8 * k) 8 = s.dmemByte (b + k)) ∧
    ∀ w : Word, ∃ t, hostWrites s (0x1000 + b) w = .next t ∧
      (∀ k, k < 4 → t.dmemByte (b + k) = w.extractLsb' (24 - 8 * k) 8) ∧
      KeepsDmemOutside b 4 s t ∧ KeepsImem s t ∧ KeepsU [] s t ∧ KeepsE [] s t ∧ KeepsRun s t ∧ t.pc = s.pc ∧
      KeepsHostSide s t ∧ t.draws = s.draws) ∧
  (∀ (s : State) (slot j : Nat), s.cfg.wf = true → s.run ≠ .running → slot < s.dmemSlots → j < 8 →
    ReadGives s (0x1000 + slotAddress slot + 4 * j) (fun d => d = (s.slotValue slot).extractLsb' (32 * (7 - j)) 32)) ∧
  (∀ (s : State) (i : Nat), s.cfg.wf = true → s.run ≠ .running → i < s.imemWords →
    ReadGives s (0x2000 + 4 * i) (fun d => d = s.imemWord i) ∧
    ∀ w : Word, ∃ t, hostWrites s (0x2000 + 4 * i) w = .next t ∧ t.imemWord i = w ∧
      (∀ j, j ≠ i → t.imemWord j = s.imemWord j) ∧ KeepsDmemOutside 0 0 s t ∧ KeepsU [] s t ∧ KeepsE [] s t ∧
      KeepsRun s t ∧ t.pc = s.pc ∧ KeepsHostSide s t ∧ t.draws = s.draws)

/-- R50, R75. While RUNNING, window writes and START_PC writes are dropped, window reads return 0, and writes of 1 to
DONE or FAULT have no effect. -/
def Obligations.BusyUnitLocksTheHostOut : Prop :=
  ∀ (s : State) (off : Nat) (w : Word), s.run = .running → off % 4 = 0 →
    (0x1000 ≤ off → off < 0x3000 → ReadGives s off (fun d => d = 0) ∧ hostWrites s off w = .next s) ∧
    (off = 0x014 ∨ off = 0x018 → hostWrites s off w = .next s)

/-- R70. No host read has a side effect on the unit: it leaves the data it returned and the count of draws, and
nothing else changes. -/
def Obligations.HostReadsHaveNoSideEffect : Prop :=
  ∀ (s : State) (off : Nat), off < 0x4000 → off % 4 = 0 →
    ∃ t, hostReads s off = .next t ∧ t = { s with hostData := t.hostData, draws := t.draws }

/-- R68. A host access that is not 32-bit and 4-byte aligned is refused. -/
def Obligations.UnsupportedHostAccessIsRefused : Prop :=
  ∀ (s : State) (addr size : Nat) (w : Word) (rest : List HostAct), size ≠ 4 ∨ addr % 4 ≠ 0 →
    (s.host = .read addr size :: rest → step s = .refused .hostAccessUnsupported) ∧
    (s.host = .write addr size w :: rest → step s = .refused .hostAccessUnsupported)

/-- R220. The IRQ output: asserted exactly when IRQ_EN = 1 and the unit is HALTED or FAULTED; a fault with IRQ_EN = 1
asserts it, as does a write that sets IRQ_EN while DONE or FAULT is 1, and clearing IRQ_EN, the acknowledgement, a new
run and a reset deassert it. A read of CTRL gives IRQ_EN in bit 2 and 0 elsewhere (R42). -/
def Obligations.IrqFollowsTheRunState : Prop :=
  (∀ s : State, s.irq = true ↔ (s.irqEn = true ∧ (s.run = .halted ∨ s.run = .faulted))) ∧
  (∀ (i : Instr) (s t : State), exec i s = .next t → t.run = .halted ∨ t.run = .faulted →
    t.irq = s.irqEn) ∧
  (∀ (s : State) (w : Word), w.getLsbD 0 = false → w.getLsbD 1 = false →
    ∃ t, hostWrites s 0x010 w = .next t ∧
      (t.irq = true ↔ (w.getLsbD 2 = true ∧ (s.run = .halted ∨ s.run = .faulted)))) ∧
  (∀ (s : State) (w : Word), (s.run = .halted ∨ s.run = .faulted) → w.getLsbD 1 = true → w.getLsbD 2 = true →
    ∃ t, hostWrites s 0x014 w = .next t ∧ t.irq = false) ∧
  (∀ (s : State) (w : Word), w.getLsbD 0 = true ∨ w.getLsbD 1 = true →
    ∃ t, hostWrites s 0x010 w = .next t ∧ t.irq = false) ∧
  (∀ s : State, ReadGives s 0x010 (fun w => w.getLsbD 2 = s.irqEn ∧ ∀ k, k ≠ 2 → w.getLsbD k = false))

/-! ### The word-level realisations -/

/-- R122. The mask blend is `sel(en, new, old)`. -/
def Obligations.BlendIsSelect : Prop := ∀ (en : Bool) (new old : Value), blend en new old = (if en then new else old)

/-- R131. The carry chain over the eight words computes ADD's value and carry, whatever the enable. -/
def Obligations.CarryChainComputesAdd : Prop :=
  ∀ (en : Bool) (a b : Value), addWords en a b = (sumValue en a b, carryOut en a b)

/-- R133. The borrow chain over the eight words computes SUB's value and borrow, whatever the enable. -/
def Obligations.BorrowChainComputesSub : Prop :=
  ∀ (en : Bool) (a b : Value), subWords en a b = (differenceValue en a b, borrowOut en a b)

/-- R142. The word-level shifts compute the values and the out-bit of SHL1 and SHR1. -/
def Obligations.WordShiftsComputeTheShifts : Prop :=
  ∀ a : Value, shlWords a = (doubled a, topBit a) ∧ shrWords a = halved a

/-- R176, R177. The word-level equality and ordering decide all six comparisons: EQ = [acc = 0], NE = [acc != 0],
LT = lt, LE = lt | eq, GT = ~lt & ~eq, GE = ~lt. -/
def Obligations.WordComparesDecideTheOrder : Prop :=
  ∀ a b : Value, flagEq a b = decide (eqAccumulator a b = 0) ∧ flagNe a b = decide (eqAccumulator a b ≠ 0) ∧
    flagLt a b = (orderFlags a b).1 ∧ flagLe a b = ((orderFlags a b).1 || (orderFlags a b).2) ∧
    flagGt a b = (!(orderFlags a b).1 && !(orderFlags a b).2) ∧ flagGe a b = !(orderFlags a b).1

/-- R157. For every pair of 256-bit inputs the engine's own test after its 512 iterations is R150's precondition, and
where that holds its result is below m, is 0 for t = 0, and is the inverse of t modulo m for t != 0. -/
def Obligations.EngineScheduleIsCorrect : Prop :=
  ∀ t m : Nat, t < 2 ^ 256 → m < 2 ^ 256 →
    engineOk t m = recipOk t m ∧
    (recipOk t m = true → engineResult t m < m ∧ (t = 0 → engineResult t m = 0) ∧
      (t ≠ 0 → (t * engineResult t m) % m = 1))
end

