-- ==== Sys2Proof/Laws/Memory.lean ====
section
/-! SUPPORT. The laws of the written memory contents: a read after a write, the canonical form, the big-endian store. -/

namespace Sys2Proof.Machine

variable {w : Nat}

/-- Every listed address is above `a`. -/
def Memory.above (m : Memory w) (a : Nat) : Prop := ∀ p ∈ m, a < p.1

theorem Memory.wf_cons (p : Nat × BitVec w) (m : Memory w) :
    Memory.wf (p :: m) = true ↔ Memory.above m p.1 ∧ Memory.wf m = true := by
  induction m generalizing p with
  | nil => simp [Memory.wf, Memory.above]
  | cons q m ih =>
    simp only [Memory.wf, Bool.and_eq_true, decide_eq_true_eq]
    constructor
    · rintro ⟨hpq, hq⟩
      refine ⟨?_, hq⟩
      intro r hr
      rcases List.mem_cons.mp hr with rfl | hr
      · exact hpq
      · exact hpq.trans (((ih q).mp hq).1 r hr)
    · rintro ⟨ha, hq⟩
      exact ⟨ha q (by simp), hq⟩

theorem Memory.above_store {m : Memory w} {b : Nat} (h : Memory.above m b) {a : Nat} (hab : b < a) (x : BitVec w) :
    Memory.above (Memory.store m a x) b := by
  induction m with
  | nil => simpa [Memory.store, Memory.above] using hab
  | cons q m ih =>
    have hq : b < q.1 := h q (by simp)
    have hm : Memory.above m b := fun p hp => h p (by simp [hp])
    obtain ⟨c, y⟩ := q
    simp only [Memory.store]
    split
    · intro p hp
      simp only [List.mem_cons] at hp
      rcases hp with rfl | rfl | hp
      exacts [hab, hq, hm p hp]
    · split
      · intro p hp
        simp only [List.mem_cons] at hp
        rcases hp with rfl | hp
        exacts [hab, hm p hp]
      · intro p hp
        simp only [List.mem_cons] at hp
        rcases hp with rfl | hp
        exacts [hq, ih hm p hp]

/-- A write keeps the canonical form. -/
theorem Memory.wf_store {m : Memory w} (h : Memory.wf m = true) (a : Nat) (x : BitVec w) :
    Memory.wf (Memory.store m a x) = true := by
  induction m with
  | nil => rfl
  | cons q m ih =>
    obtain ⟨b, y⟩ := q
    obtain ⟨hb, hm⟩ := (Memory.wf_cons _ _).mp h
    simp only [Memory.store]
    split
    · rename_i hab
      refine (Memory.wf_cons _ _).mpr ⟨?_, h⟩
      intro p hp
      rcases List.mem_cons.mp hp with rfl | hp
      · exact hab
      · exact hab.trans (hb p hp)
    · split
      · rename_i hab
        subst hab
        exact (Memory.wf_cons _ _).mpr ⟨hb, hm⟩
      · exact (Memory.wf_cons _ _).mpr ⟨Memory.above_store hb (by simp; omega) x, ih hm⟩

/-- A read after a write: the written address holds what was written, and every other address holds what it held. -/
theorem Memory.lookup_store (m : Memory w) (a : Nat) (x : BitVec w) (c : Nat) :
    Memory.lookup (Memory.store m a x) c = if c = a then some x else Memory.lookup m c := by
  induction m with
  | nil => simp [Memory.store, Memory.lookup]
  | cons q m ih =>
    obtain ⟨b, y⟩ := q
    simp only [Memory.store]
    split
    · simp [Memory.lookup]
    · split
      · rename_i hab
        subst hab
        simp only [Memory.lookup]
        split <;> simp_all
      · simp only [Memory.lookup, ih]
        split <;> split <;> simp_all

/-- A write at an address below `n` keeps every address below `n`. -/
theorem Memory.within_store {m : Memory w} {n : Nat} (h : Memory.within m n = true) {a : Nat} (ha : a < n)
    (x : BitVec w) : Memory.within (Memory.store m a x) n = true := by
  induction m with
  | nil => simpa [Memory.store, Memory.within] using ha
  | cons q m ih =>
    obtain ⟨b, y⟩ := q
    simp only [Memory.within, List.all_cons, Bool.and_eq_true, decide_eq_true_eq] at h
    have hm := ih (by simpa [Memory.within] using h.2)
    simp only [Memory.within] at hm ⊢
    simp only [Memory.store]
    split
    · simpa [ha, h.1] using h.2
    · split
      · simpa [ha] using h.2
      · simp only [List.all_cons, hm, h.1, decide_true, Bool.and_self]

/-- Byte `k` of the `n`-byte big-endian form of `v` (R13). -/
def byteOf (n k v : Nat) : Byte := BitVec.ofNat 8 (v / 2 ^ (8 * (n - 1 - k)))

/-- The big-endian store writes byte `k` of `v` at `a + k` and leaves every other address alone. -/
theorem Memory.lookup_storeBE (n : Nat) : ∀ (m : Memory 8) (a v c : Nat),
    Memory.lookup (Memory.storeBE m a n v) c =
      if a ≤ c ∧ c < a + n then some (byteOf n (c - a) v) else Memory.lookup m c := by
  induction n with
  | zero =>
    intro m a v c
    rw [if_neg (by omega)]
    rfl
  | succ n ih =>
    intro m a v c
    simp only [Memory.storeBE, ih, Memory.lookup_store]
    by_cases hc : c = a
    · subst hc
      rw [if_neg (by omega), if_pos rfl, if_pos (by omega)]
      simp [byteOf]
    · by_cases hin : a + 1 ≤ c ∧ c < a + 1 + n
      · rw [if_pos hin, if_pos (by omega)]
        simp only [byteOf]
        have : n - 1 - (c - (a + 1)) = n + 1 - 1 - (c - a) := by omega
        rw [this]
      · rw [if_neg hin, if_neg hc, if_neg (by omega)]

/-- The big-endian store keeps the canonical form. -/
theorem Memory.wf_storeBE (n : Nat) : ∀ {m : Memory 8}, Memory.wf m = true → ∀ a v : Nat,
    Memory.wf (Memory.storeBE m a n v) = true := by
  induction n with
  | zero => intro m h a v; exact h
  | succ n ih => intro m h a v; exact ih (Memory.wf_store h _ _) _ _

/-- The big-endian store of `n` bytes at `a` keeps every address below a bound that covers them. -/
theorem Memory.within_storeBE (n : Nat) : ∀ {m : Memory 8} {b : Nat}, Memory.within m b = true → ∀ a v : Nat,
    a + n ≤ b → Memory.within (Memory.storeBE m a n v) b = true := by
  induction n with
  | zero => intro m b h a v _; exact h
  | succ n ih =>
    intro m b h a v hb
    exact ih (Memory.within_store h (by omega) _) _ _ (by omega)

end Sys2Proof.Machine
end

