-- ==== Sys2Proof/Laws/State.lean ====
section
/-! SUPPORT. One lemma per field per update of State: what each named operation leaves a field at. They are true by
rfl and in the simp set, so that no proof unfolds a record update. -/

namespace Sys2Proof.Machine.State

variable (s : State)

/-! ### writeU -/

@[simp] theorem writeU_cfg (r : UReg) (x : Value) : (s.writeU r x).cfg = s.cfg := rfl
@[simp] theorem writeU_u (r : UReg) (x : Value) : (s.writeU r x).u = s.u.set r x := rfl
@[simp] theorem writeU_v (r : UReg) (x : Value) : (s.writeU r x).v = s.v.set r true := rfl
@[simp] theorem writeU_e1 (r : UReg) (x : Value) : (s.writeU r x).e1 = s.e1 := rfl
@[simp] theorem writeU_e2 (r : UReg) (x : Value) : (s.writeU r x).e2 = s.e2 := rfl
@[simp] theorem writeU_e3 (r : UReg) (x : Value) : (s.writeU r x).e3 = s.e3 := rfl
@[simp] theorem writeU_pc (r : UReg) (x : Value) : (s.writeU r x).pc = s.pc := rfl
@[simp] theorem writeU_run (r : UReg) (x : Value) : (s.writeU r x).run = s.run := rfl
@[simp] theorem writeU_irqEn (r : UReg) (x : Value) : (s.writeU r x).irqEn = s.irqEn := rfl
@[simp] theorem writeU_startPc (r : UReg) (x : Value) : (s.writeU r x).startPc = s.startPc := rfl
@[simp] theorem writeU_faultCause (r : UReg) (x : Value) : (s.writeU r x).faultCause = s.faultCause := rfl
@[simp] theorem writeU_faultPc (r : UReg) (x : Value) : (s.writeU r x).faultPc = s.faultPc := rfl
@[simp] theorem writeU_faultInsn (r : UReg) (x : Value) : (s.writeU r x).faultInsn = s.faultInsn := rfl
@[simp] theorem writeU_imem (r : UReg) (x : Value) : (s.writeU r x).imem = s.imem := rfl
@[simp] theorem writeU_dmem (r : UReg) (x : Value) : (s.writeU r x).dmem = s.dmem := rfl
@[simp] theorem writeU_draws (r : UReg) (x : Value) : (s.writeU r x).draws = s.draws := rfl
@[simp] theorem writeU_powerOns (r : UReg) (x : Value) : (s.writeU r x).powerOns = s.powerOns := rfl
@[simp] theorem writeU_host (r : UReg) (x : Value) : (s.writeU r x).host = s.host := rfl
@[simp] theorem writeU_hostData (r : UReg) (x : Value) : (s.writeU r x).hostData = s.hostData := rfl

/-! ### advance -/

@[simp] theorem advance_cfg : (s.advance).cfg = s.cfg := rfl
@[simp] theorem advance_u : (s.advance).u = s.u := rfl
@[simp] theorem advance_v : (s.advance).v = s.v := rfl
@[simp] theorem advance_e1 : (s.advance).e1 = s.e1 := rfl
@[simp] theorem advance_e2 : (s.advance).e2 = s.e2 := rfl
@[simp] theorem advance_e3 : (s.advance).e3 = s.e3 := rfl
@[simp] theorem advance_pc : (s.advance).pc = s.pc + 1 := rfl
@[simp] theorem advance_run : (s.advance).run = s.run := rfl
@[simp] theorem advance_irqEn : (s.advance).irqEn = s.irqEn := rfl
@[simp] theorem advance_startPc : (s.advance).startPc = s.startPc := rfl
@[simp] theorem advance_faultCause : (s.advance).faultCause = s.faultCause := rfl
@[simp] theorem advance_faultPc : (s.advance).faultPc = s.faultPc := rfl
@[simp] theorem advance_faultInsn : (s.advance).faultInsn = s.faultInsn := rfl
@[simp] theorem advance_imem : (s.advance).imem = s.imem := rfl
@[simp] theorem advance_dmem : (s.advance).dmem = s.dmem := rfl
@[simp] theorem advance_draws : (s.advance).draws = s.draws := rfl
@[simp] theorem advance_powerOns : (s.advance).powerOns = s.powerOns := rfl
@[simp] theorem advance_host : (s.advance).host = s.host := rfl
@[simp] theorem advance_hostData : (s.advance).hostData = s.hostData := rfl

/-! ### countDraw -/

@[simp] theorem countDraw_cfg : (s.countDraw).cfg = s.cfg := rfl
@[simp] theorem countDraw_u : (s.countDraw).u = s.u := rfl
@[simp] theorem countDraw_v : (s.countDraw).v = s.v := rfl
@[simp] theorem countDraw_e1 : (s.countDraw).e1 = s.e1 := rfl
@[simp] theorem countDraw_e2 : (s.countDraw).e2 = s.e2 := rfl
@[simp] theorem countDraw_e3 : (s.countDraw).e3 = s.e3 := rfl
@[simp] theorem countDraw_pc : (s.countDraw).pc = s.pc := rfl
@[simp] theorem countDraw_run : (s.countDraw).run = s.run := rfl
@[simp] theorem countDraw_irqEn : (s.countDraw).irqEn = s.irqEn := rfl
@[simp] theorem countDraw_startPc : (s.countDraw).startPc = s.startPc := rfl
@[simp] theorem countDraw_faultCause : (s.countDraw).faultCause = s.faultCause := rfl
@[simp] theorem countDraw_faultPc : (s.countDraw).faultPc = s.faultPc := rfl
@[simp] theorem countDraw_faultInsn : (s.countDraw).faultInsn = s.faultInsn := rfl
@[simp] theorem countDraw_imem : (s.countDraw).imem = s.imem := rfl
@[simp] theorem countDraw_dmem : (s.countDraw).dmem = s.dmem := rfl
@[simp] theorem countDraw_draws : (s.countDraw).draws = s.draws + 1 := rfl
@[simp] theorem countDraw_powerOns : (s.countDraw).powerOns = s.powerOns := rfl
@[simp] theorem countDraw_host : (s.countDraw).host = s.host := rfl
@[simp] theorem countDraw_hostData : (s.countDraw).hostData = s.hostData := rfl

/-! ### takeFault -/

@[simp] theorem takeFault_cfg (c : FaultCause) (w : Word) : (s.takeFault c w).cfg = s.cfg := rfl
@[simp] theorem takeFault_u (c : FaultCause) (w : Word) : (s.takeFault c w).u = s.u := rfl
@[simp] theorem takeFault_v (c : FaultCause) (w : Word) : (s.takeFault c w).v = s.v := rfl
@[simp] theorem takeFault_e1 (c : FaultCause) (w : Word) : (s.takeFault c w).e1 = s.e1 := rfl
@[simp] theorem takeFault_e2 (c : FaultCause) (w : Word) : (s.takeFault c w).e2 = s.e2 := rfl
@[simp] theorem takeFault_e3 (c : FaultCause) (w : Word) : (s.takeFault c w).e3 = s.e3 := rfl
@[simp] theorem takeFault_pc (c : FaultCause) (w : Word) : (s.takeFault c w).pc = s.pc := rfl
@[simp] theorem takeFault_run (c : FaultCause) (w : Word) : (s.takeFault c w).run = .faulted := rfl
@[simp] theorem takeFault_irqEn (c : FaultCause) (w : Word) : (s.takeFault c w).irqEn = s.irqEn := rfl
@[simp] theorem takeFault_startPc (c : FaultCause) (w : Word) : (s.takeFault c w).startPc = s.startPc := rfl
@[simp] theorem takeFault_faultCause (c : FaultCause) (w : Word) : (s.takeFault c w).faultCause = c := rfl
@[simp] theorem takeFault_faultPc (c : FaultCause) (w : Word) : (s.takeFault c w).faultPc = s.pc := rfl
@[simp] theorem takeFault_faultInsn (c : FaultCause) (w : Word) : (s.takeFault c w).faultInsn = w := rfl
@[simp] theorem takeFault_imem (c : FaultCause) (w : Word) : (s.takeFault c w).imem = s.imem := rfl
@[simp] theorem takeFault_dmem (c : FaultCause) (w : Word) : (s.takeFault c w).dmem = s.dmem := rfl
@[simp] theorem takeFault_draws (c : FaultCause) (w : Word) : (s.takeFault c w).draws = s.draws := rfl
@[simp] theorem takeFault_powerOns (c : FaultCause) (w : Word) : (s.takeFault c w).powerOns = s.powerOns := rfl
@[simp] theorem takeFault_host (c : FaultCause) (w : Word) : (s.takeFault c w).host = s.host := rfl
@[simp] theorem takeFault_hostData (c : FaultCause) (w : Word) : (s.takeFault c w).hostData = s.hostData := rfl

/-! ### startRun -/

@[simp] theorem startRun_cfg : (s.startRun).cfg = s.cfg := rfl
@[simp] theorem startRun_u : (s.startRun).u = s.u := rfl
@[simp] theorem startRun_v : (s.startRun).v = s.v := rfl
@[simp] theorem startRun_e1 : (s.startRun).e1 = s.e1 := rfl
@[simp] theorem startRun_e2 : (s.startRun).e2 = s.e2 := rfl
@[simp] theorem startRun_e3 : (s.startRun).e3 = s.e3 := rfl
@[simp] theorem startRun_pc : (s.startRun).pc = s.startPc := rfl
@[simp] theorem startRun_run : (s.startRun).run = .running := rfl
@[simp] theorem startRun_irqEn : (s.startRun).irqEn = s.irqEn := rfl
@[simp] theorem startRun_startPc : (s.startRun).startPc = s.startPc := rfl
@[simp] theorem startRun_faultCause : (s.startRun).faultCause = .noFault := rfl
@[simp] theorem startRun_faultPc : (s.startRun).faultPc = 0 := rfl
@[simp] theorem startRun_faultInsn : (s.startRun).faultInsn = 0 := rfl
@[simp] theorem startRun_imem : (s.startRun).imem = s.imem := rfl
@[simp] theorem startRun_dmem : (s.startRun).dmem = s.dmem := rfl
@[simp] theorem startRun_draws : (s.startRun).draws = s.draws := rfl
@[simp] theorem startRun_powerOns : (s.startRun).powerOns = s.powerOns := rfl
@[simp] theorem startRun_host : (s.startRun).host = s.host := rfl
@[simp] theorem startRun_hostData : (s.startRun).hostData = s.hostData := rfl

/-! ### haltRun -/

@[simp] theorem haltRun_cfg : (s.haltRun).cfg = s.cfg := rfl
@[simp] theorem haltRun_u : (s.haltRun).u = s.u := rfl
@[simp] theorem haltRun_v : (s.haltRun).v = s.v := rfl
@[simp] theorem haltRun_e1 : (s.haltRun).e1 = s.e1 := rfl
@[simp] theorem haltRun_e2 : (s.haltRun).e2 = s.e2 := rfl
@[simp] theorem haltRun_e3 : (s.haltRun).e3 = s.e3 := rfl
@[simp] theorem haltRun_pc : (s.haltRun).pc = s.pc := rfl
@[simp] theorem haltRun_run : (s.haltRun).run = .halted := rfl
@[simp] theorem haltRun_irqEn : (s.haltRun).irqEn = s.irqEn := rfl
@[simp] theorem haltRun_startPc : (s.haltRun).startPc = s.startPc := rfl
@[simp] theorem haltRun_faultCause : (s.haltRun).faultCause = s.faultCause := rfl
@[simp] theorem haltRun_faultPc : (s.haltRun).faultPc = s.faultPc := rfl
@[simp] theorem haltRun_faultInsn : (s.haltRun).faultInsn = s.faultInsn := rfl
@[simp] theorem haltRun_imem : (s.haltRun).imem = s.imem := rfl
@[simp] theorem haltRun_dmem : (s.haltRun).dmem = s.dmem := rfl
@[simp] theorem haltRun_draws : (s.haltRun).draws = s.draws := rfl
@[simp] theorem haltRun_powerOns : (s.haltRun).powerOns = s.powerOns := rfl
@[simp] theorem haltRun_host : (s.haltRun).host = s.host := rfl
@[simp] theorem haltRun_hostData : (s.haltRun).hostData = s.hostData := rfl

/-! ### acknowledge -/

@[simp] theorem acknowledge_cfg : (s.acknowledge).cfg = s.cfg := rfl
@[simp] theorem acknowledge_u : (s.acknowledge).u = s.u := rfl
@[simp] theorem acknowledge_v : (s.acknowledge).v = s.v := rfl
@[simp] theorem acknowledge_e1 : (s.acknowledge).e1 = s.e1 := rfl
@[simp] theorem acknowledge_e2 : (s.acknowledge).e2 = s.e2 := rfl
@[simp] theorem acknowledge_e3 : (s.acknowledge).e3 = s.e3 := rfl
@[simp] theorem acknowledge_pc : (s.acknowledge).pc = s.pc := rfl
@[simp] theorem acknowledge_run : (s.acknowledge).run = .idle := rfl
@[simp] theorem acknowledge_irqEn : (s.acknowledge).irqEn = s.irqEn := rfl
@[simp] theorem acknowledge_startPc : (s.acknowledge).startPc = s.startPc := rfl
@[simp] theorem acknowledge_faultCause : (s.acknowledge).faultCause = s.faultCause := rfl
@[simp] theorem acknowledge_faultPc : (s.acknowledge).faultPc = s.faultPc := rfl
@[simp] theorem acknowledge_faultInsn : (s.acknowledge).faultInsn = s.faultInsn := rfl
@[simp] theorem acknowledge_imem : (s.acknowledge).imem = s.imem := rfl
@[simp] theorem acknowledge_dmem : (s.acknowledge).dmem = s.dmem := rfl
@[simp] theorem acknowledge_draws : (s.acknowledge).draws = s.draws := rfl
@[simp] theorem acknowledge_powerOns : (s.acknowledge).powerOns = s.powerOns := rfl
@[simp] theorem acknowledge_host : (s.acknowledge).host = s.host := rfl
@[simp] theorem acknowledge_hostData : (s.acknowledge).hostData = s.hostData := rfl

/-! ### memWrite -/

@[simp] theorem memWrite_cfg (a n x : Nat) : (s.memWrite a n x).cfg = s.cfg := rfl
@[simp] theorem memWrite_u (a n x : Nat) : (s.memWrite a n x).u = s.u := rfl
@[simp] theorem memWrite_v (a n x : Nat) : (s.memWrite a n x).v = s.v := rfl
@[simp] theorem memWrite_e1 (a n x : Nat) : (s.memWrite a n x).e1 = s.e1 := rfl
@[simp] theorem memWrite_e2 (a n x : Nat) : (s.memWrite a n x).e2 = s.e2 := rfl
@[simp] theorem memWrite_e3 (a n x : Nat) : (s.memWrite a n x).e3 = s.e3 := rfl
@[simp] theorem memWrite_pc (a n x : Nat) : (s.memWrite a n x).pc = s.pc := rfl
@[simp] theorem memWrite_run (a n x : Nat) : (s.memWrite a n x).run = s.run := rfl
@[simp] theorem memWrite_irqEn (a n x : Nat) : (s.memWrite a n x).irqEn = s.irqEn := rfl
@[simp] theorem memWrite_startPc (a n x : Nat) : (s.memWrite a n x).startPc = s.startPc := rfl
@[simp] theorem memWrite_faultCause (a n x : Nat) : (s.memWrite a n x).faultCause = s.faultCause := rfl
@[simp] theorem memWrite_faultPc (a n x : Nat) : (s.memWrite a n x).faultPc = s.faultPc := rfl
@[simp] theorem memWrite_faultInsn (a n x : Nat) : (s.memWrite a n x).faultInsn = s.faultInsn := rfl
@[simp] theorem memWrite_imem (a n x : Nat) : (s.memWrite a n x).imem = s.imem := rfl
@[simp] theorem memWrite_dmem (a n x : Nat) : (s.memWrite a n x).dmem = Memory.storeBE s.dmem a n x := rfl
@[simp] theorem memWrite_draws (a n x : Nat) : (s.memWrite a n x).draws = s.draws := rfl
@[simp] theorem memWrite_powerOns (a n x : Nat) : (s.memWrite a n x).powerOns = s.powerOns := rfl
@[simp] theorem memWrite_host (a n x : Nat) : (s.memWrite a n x).host = s.host := rfl
@[simp] theorem memWrite_hostData (a n x : Nat) : (s.memWrite a n x).hostData = s.hostData := rfl

/-! ### imemWrite -/

@[simp] theorem imemWrite_cfg (i : Nat) (w : Word) : (s.imemWrite i w).cfg = s.cfg := rfl
@[simp] theorem imemWrite_u (i : Nat) (w : Word) : (s.imemWrite i w).u = s.u := rfl
@[simp] theorem imemWrite_v (i : Nat) (w : Word) : (s.imemWrite i w).v = s.v := rfl
@[simp] theorem imemWrite_e1 (i : Nat) (w : Word) : (s.imemWrite i w).e1 = s.e1 := rfl
@[simp] theorem imemWrite_e2 (i : Nat) (w : Word) : (s.imemWrite i w).e2 = s.e2 := rfl
@[simp] theorem imemWrite_e3 (i : Nat) (w : Word) : (s.imemWrite i w).e3 = s.e3 := rfl
@[simp] theorem imemWrite_pc (i : Nat) (w : Word) : (s.imemWrite i w).pc = s.pc := rfl
@[simp] theorem imemWrite_run (i : Nat) (w : Word) : (s.imemWrite i w).run = s.run := rfl
@[simp] theorem imemWrite_irqEn (i : Nat) (w : Word) : (s.imemWrite i w).irqEn = s.irqEn := rfl
@[simp] theorem imemWrite_startPc (i : Nat) (w : Word) : (s.imemWrite i w).startPc = s.startPc := rfl
@[simp] theorem imemWrite_faultCause (i : Nat) (w : Word) : (s.imemWrite i w).faultCause = s.faultCause := rfl
@[simp] theorem imemWrite_faultPc (i : Nat) (w : Word) : (s.imemWrite i w).faultPc = s.faultPc := rfl
@[simp] theorem imemWrite_faultInsn (i : Nat) (w : Word) : (s.imemWrite i w).faultInsn = s.faultInsn := rfl
@[simp] theorem imemWrite_imem (i : Nat) (w : Word) : (s.imemWrite i w).imem = Memory.store s.imem i w := rfl
@[simp] theorem imemWrite_dmem (i : Nat) (w : Word) : (s.imemWrite i w).dmem = s.dmem := rfl
@[simp] theorem imemWrite_draws (i : Nat) (w : Word) : (s.imemWrite i w).draws = s.draws := rfl
@[simp] theorem imemWrite_powerOns (i : Nat) (w : Word) : (s.imemWrite i w).powerOns = s.powerOns := rfl
@[simp] theorem imemWrite_host (i : Nat) (w : Word) : (s.imemWrite i w).host = s.host := rfl
@[simp] theorem imemWrite_hostData (i : Nat) (w : Word) : (s.imemWrite i w).hostData = s.hostData := rfl

/-! ### softReset -/

@[simp] theorem softReset_cfg : (s.softReset).cfg = s.cfg := rfl
@[simp] theorem softReset_u : (s.softReset).u = Vector.replicate 8 0 := rfl
@[simp] theorem softReset_v : (s.softReset).v = Vector.replicate 8 false := rfl
@[simp] theorem softReset_e1 : (s.softReset).e1 = false := rfl
@[simp] theorem softReset_e2 : (s.softReset).e2 = false := rfl
@[simp] theorem softReset_e3 : (s.softReset).e3 = false := rfl
@[simp] theorem softReset_pc : (s.softReset).pc = 0 := rfl
@[simp] theorem softReset_run : (s.softReset).run = .idle := rfl
@[simp] theorem softReset_irqEn : (s.softReset).irqEn = false := rfl
@[simp] theorem softReset_startPc : (s.softReset).startPc = 0 := rfl
@[simp] theorem softReset_faultCause : (s.softReset).faultCause = .noFault := rfl
@[simp] theorem softReset_faultPc : (s.softReset).faultPc = 0 := rfl
@[simp] theorem softReset_faultInsn : (s.softReset).faultInsn = 0 := rfl
@[simp] theorem softReset_imem : (s.softReset).imem = s.imem := rfl
@[simp] theorem softReset_dmem : (s.softReset).dmem = s.dmem := rfl
@[simp] theorem softReset_draws : (s.softReset).draws = s.draws := rfl
@[simp] theorem softReset_powerOns : (s.softReset).powerOns = s.powerOns := rfl
@[simp] theorem softReset_host : (s.softReset).host = s.host := rfl
@[simp] theorem softReset_hostData : (s.softReset).hostData = s.hostData := rfl

/-! ### hardReset -/

@[simp] theorem hardReset_cfg : (s.hardReset).cfg = s.cfg := rfl
@[simp] theorem hardReset_u : (s.hardReset).u = Vector.replicate 8 0 := rfl
@[simp] theorem hardReset_v : (s.hardReset).v = Vector.replicate 8 false := rfl
@[simp] theorem hardReset_e1 : (s.hardReset).e1 = false := rfl
@[simp] theorem hardReset_e2 : (s.hardReset).e2 = false := rfl
@[simp] theorem hardReset_e3 : (s.hardReset).e3 = false := rfl
@[simp] theorem hardReset_pc : (s.hardReset).pc = 0 := rfl
@[simp] theorem hardReset_run : (s.hardReset).run = .idle := rfl
@[simp] theorem hardReset_irqEn : (s.hardReset).irqEn = false := rfl
@[simp] theorem hardReset_startPc : (s.hardReset).startPc = 0 := rfl
@[simp] theorem hardReset_faultCause : (s.hardReset).faultCause = .noFault := rfl
@[simp] theorem hardReset_faultPc : (s.hardReset).faultPc = 0 := rfl
@[simp] theorem hardReset_faultInsn : (s.hardReset).faultInsn = 0 := rfl
@[simp] theorem hardReset_imem : (s.hardReset).imem = [] := rfl
@[simp] theorem hardReset_dmem : (s.hardReset).dmem = [] := rfl
@[simp] theorem hardReset_draws : (s.hardReset).draws = s.draws := rfl
@[simp] theorem hardReset_powerOns : (s.hardReset).powerOns = s.powerOns + 1 := rfl
@[simp] theorem hardReset_host : (s.hardReset).host = s.host := rfl
@[simp] theorem hardReset_hostData : (s.hardReset).hostData = s.hostData := rfl

/-! ### writeE: a predicate register at a time, and the fields it never touches -/

@[simp] theorem writeE_cfg (e : EReg) (b : Bool) : (s.writeE e b).cfg = s.cfg :=
  match e with
  | 0 | 1 | 2 | 3 => rfl
@[simp] theorem writeE_u (e : EReg) (b : Bool) : (s.writeE e b).u = s.u :=
  match e with
  | 0 | 1 | 2 | 3 => rfl
@[simp] theorem writeE_v (e : EReg) (b : Bool) : (s.writeE e b).v = s.v :=
  match e with
  | 0 | 1 | 2 | 3 => rfl
@[simp] theorem writeE_pc (e : EReg) (b : Bool) : (s.writeE e b).pc = s.pc :=
  match e with
  | 0 | 1 | 2 | 3 => rfl
@[simp] theorem writeE_run (e : EReg) (b : Bool) : (s.writeE e b).run = s.run :=
  match e with
  | 0 | 1 | 2 | 3 => rfl
@[simp] theorem writeE_irqEn (e : EReg) (b : Bool) : (s.writeE e b).irqEn = s.irqEn :=
  match e with
  | 0 | 1 | 2 | 3 => rfl
@[simp] theorem writeE_startPc (e : EReg) (b : Bool) : (s.writeE e b).startPc = s.startPc :=
  match e with
  | 0 | 1 | 2 | 3 => rfl
@[simp] theorem writeE_faultCause (e : EReg) (b : Bool) : (s.writeE e b).faultCause = s.faultCause :=
  match e with
  | 0 | 1 | 2 | 3 => rfl
@[simp] theorem writeE_faultPc (e : EReg) (b : Bool) : (s.writeE e b).faultPc = s.faultPc :=
  match e with
  | 0 | 1 | 2 | 3 => rfl
@[simp] theorem writeE_faultInsn (e : EReg) (b : Bool) : (s.writeE e b).faultInsn = s.faultInsn :=
  match e with
  | 0 | 1 | 2 | 3 => rfl
@[simp] theorem writeE_imem (e : EReg) (b : Bool) : (s.writeE e b).imem = s.imem :=
  match e with
  | 0 | 1 | 2 | 3 => rfl
@[simp] theorem writeE_dmem (e : EReg) (b : Bool) : (s.writeE e b).dmem = s.dmem :=
  match e with
  | 0 | 1 | 2 | 3 => rfl
@[simp] theorem writeE_draws (e : EReg) (b : Bool) : (s.writeE e b).draws = s.draws :=
  match e with
  | 0 | 1 | 2 | 3 => rfl
@[simp] theorem writeE_powerOns (e : EReg) (b : Bool) : (s.writeE e b).powerOns = s.powerOns :=
  match e with
  | 0 | 1 | 2 | 3 => rfl
@[simp] theorem writeE_host (e : EReg) (b : Bool) : (s.writeE e b).host = s.host :=
  match e with
  | 0 | 1 | 2 | 3 => rfl
@[simp] theorem writeE_hostData (e : EReg) (b : Bool) : (s.writeE e b).hostData = s.hostData :=
  match e with
  | 0 | 1 | 2 | 3 => rfl

/-! ### The sizes of the instance depend on cfg alone -/

@[simp] theorem writeU_imemWords (r : UReg) (x : Value) : (s.writeU r x).imemWords = s.imemWords := rfl
@[simp] theorem advance_imemWords : (s.advance).imemWords = s.imemWords := rfl
@[simp] theorem countDraw_imemWords : (s.countDraw).imemWords = s.imemWords := rfl
@[simp] theorem takeFault_imemWords (c : FaultCause) (w : Word) : (s.takeFault c w).imemWords = s.imemWords := rfl
@[simp] theorem startRun_imemWords : (s.startRun).imemWords = s.imemWords := rfl
@[simp] theorem haltRun_imemWords : (s.haltRun).imemWords = s.imemWords := rfl
@[simp] theorem acknowledge_imemWords : (s.acknowledge).imemWords = s.imemWords := rfl
@[simp] theorem memWrite_imemWords (a n x : Nat) : (s.memWrite a n x).imemWords = s.imemWords := rfl
@[simp] theorem imemWrite_imemWords (i : Nat) (w : Word) : (s.imemWrite i w).imemWords = s.imemWords := rfl
@[simp] theorem softReset_imemWords : (s.softReset).imemWords = s.imemWords := rfl
@[simp] theorem hardReset_imemWords : (s.hardReset).imemWords = s.imemWords := rfl
@[simp] theorem writeE_imemWords (e : EReg) (b : Bool) : (s.writeE e b).imemWords = s.imemWords := by
  simp [imemWords]
@[simp] theorem writeU_dmemSlots (r : UReg) (x : Value) : (s.writeU r x).dmemSlots = s.dmemSlots := rfl
@[simp] theorem advance_dmemSlots : (s.advance).dmemSlots = s.dmemSlots := rfl
@[simp] theorem countDraw_dmemSlots : (s.countDraw).dmemSlots = s.dmemSlots := rfl
@[simp] theorem takeFault_dmemSlots (c : FaultCause) (w : Word) : (s.takeFault c w).dmemSlots = s.dmemSlots := rfl
@[simp] theorem startRun_dmemSlots : (s.startRun).dmemSlots = s.dmemSlots := rfl
@[simp] theorem haltRun_dmemSlots : (s.haltRun).dmemSlots = s.dmemSlots := rfl
@[simp] theorem acknowledge_dmemSlots : (s.acknowledge).dmemSlots = s.dmemSlots := rfl
@[simp] theorem memWrite_dmemSlots (a n x : Nat) : (s.memWrite a n x).dmemSlots = s.dmemSlots := rfl
@[simp] theorem imemWrite_dmemSlots (i : Nat) (w : Word) : (s.imemWrite i w).dmemSlots = s.dmemSlots := rfl
@[simp] theorem softReset_dmemSlots : (s.softReset).dmemSlots = s.dmemSlots := rfl
@[simp] theorem hardReset_dmemSlots : (s.hardReset).dmemSlots = s.dmemSlots := rfl
@[simp] theorem writeE_dmemSlots (e : EReg) (b : Bool) : (s.writeE e b).dmemSlots = s.dmemSlots := by
  simp [dmemSlots]
@[simp] theorem writeU_dmemBytes (r : UReg) (x : Value) : (s.writeU r x).dmemBytes = s.dmemBytes := rfl
@[simp] theorem advance_dmemBytes : (s.advance).dmemBytes = s.dmemBytes := rfl
@[simp] theorem countDraw_dmemBytes : (s.countDraw).dmemBytes = s.dmemBytes := rfl
@[simp] theorem takeFault_dmemBytes (c : FaultCause) (w : Word) : (s.takeFault c w).dmemBytes = s.dmemBytes := rfl
@[simp] theorem startRun_dmemBytes : (s.startRun).dmemBytes = s.dmemBytes := rfl
@[simp] theorem haltRun_dmemBytes : (s.haltRun).dmemBytes = s.dmemBytes := rfl
@[simp] theorem acknowledge_dmemBytes : (s.acknowledge).dmemBytes = s.dmemBytes := rfl
@[simp] theorem memWrite_dmemBytes (a n x : Nat) : (s.memWrite a n x).dmemBytes = s.dmemBytes := rfl
@[simp] theorem imemWrite_dmemBytes (i : Nat) (w : Word) : (s.imemWrite i w).dmemBytes = s.dmemBytes := rfl
@[simp] theorem softReset_dmemBytes : (s.softReset).dmemBytes = s.dmemBytes := rfl
@[simp] theorem hardReset_dmemBytes : (s.hardReset).dmemBytes = s.dmemBytes := rfl
@[simp] theorem writeE_dmemBytes (e : EReg) (b : Bool) : (s.writeE e b).dmemBytes = s.dmemBytes := by
  simp [dmemBytes, dmemSlots]

end Sys2Proof.Machine.State
end

