-- ==== Sys2Proof/Laws/Ops.lean ====
section
/-! SUPPORT. What the shared operations do, said once: reads after writes of every register file and memory, and the
spec lemmas of `retire`, `memRead` and `hostAccess`. -/

namespace Sys2Proof.Machine

variable (s : State)

/-! ### Value registers -/

@[simp] theorem State.readU_writeU (r q : UReg) (x : Value) :
    (s.writeU r x).readU q = if r = q then x else s.readU q := by
  simp [State.readU, State.writeU, Vector.getElem_set, Fin.ext_iff]

@[simp] theorem State.valid_writeU (r q : UReg) (x : Value) :
    (s.writeU r x).valid q = if r = q then true else s.valid q := by
  simp [State.valid, State.writeU, Vector.getElem_set, Fin.ext_iff]

@[simp] theorem State.readU_writeE (e : EReg) (b : Bool) (q : UReg) : (s.writeE e b).readU q = s.readU q := by
  simp [State.readU]
@[simp] theorem State.valid_writeE (e : EReg) (b : Bool) (q : UReg) : (s.writeE e b).valid q = s.valid q := by
  simp [State.valid]
@[simp] theorem State.readU_advance (q : UReg) : s.advance.readU q = s.readU q := rfl
@[simp] theorem State.valid_advance (q : UReg) : s.advance.valid q = s.valid q := rfl
@[simp] theorem State.readU_countDraw (q : UReg) : s.countDraw.readU q = s.readU q := rfl
@[simp] theorem State.valid_countDraw (q : UReg) : s.countDraw.valid q = s.valid q := rfl
@[simp] theorem State.readU_takeFault (c : FaultCause) (w : Word) (q : UReg) :
    (s.takeFault c w).readU q = s.readU q := rfl
@[simp] theorem State.valid_takeFault (c : FaultCause) (w : Word) (q : UReg) :
    (s.takeFault c w).valid q = s.valid q := rfl
@[simp] theorem State.readU_memWrite (a n x : Nat) (q : UReg) : (s.memWrite a n x).readU q = s.readU q := rfl
@[simp] theorem State.valid_memWrite (a n x : Nat) (q : UReg) : (s.memWrite a n x).valid q = s.valid q := rfl
@[simp] theorem State.readU_haltRun (q : UReg) : s.haltRun.readU q = s.readU q := rfl
@[simp] theorem State.valid_haltRun (q : UReg) : s.haltRun.valid q = s.valid q := rfl
@[simp] theorem State.readU_startRun (q : UReg) : s.startRun.readU q = s.readU q := rfl
@[simp] theorem State.valid_startRun (q : UReg) : s.startRun.valid q = s.valid q := rfl
@[simp] theorem State.valid_softReset (q : UReg) : s.softReset.valid q = false := by
  simp [State.valid]

/-! ### Predicate registers -/

/-- E0 always reads 1 (R26). -/
@[simp] theorem State.readE_zero : s.readE 0 = true := rfl

@[simp] theorem State.readE_writeE (e q : EReg) (b : Bool) :
    (s.writeE e b).readE q = if q = 0 then true else if e = q then b else s.readE q := by
  match e, q with
  | 0, 0 | 0, 1 | 0, 2 | 0, 3 | 1, 0 | 1, 1 | 1, 2 | 1, 3 => rfl
  | 2, 0 | 2, 1 | 2, 2 | 2, 3 | 3, 0 | 3, 1 | 3, 2 | 3, 3 => rfl

@[simp] theorem State.readE_writeU (r : UReg) (x : Value) (q : EReg) : (s.writeU r x).readE q = s.readE q := rfl
@[simp] theorem State.readE_advance (q : EReg) : s.advance.readE q = s.readE q := rfl
@[simp] theorem State.readE_countDraw (q : EReg) : s.countDraw.readE q = s.readE q := rfl
@[simp] theorem State.readE_takeFault (c : FaultCause) (w : Word) (q : EReg) :
    (s.takeFault c w).readE q = s.readE q := rfl
@[simp] theorem State.readE_memWrite (a n x : Nat) (q : EReg) : (s.memWrite a n x).readE q = s.readE q := rfl
@[simp] theorem State.readE_haltRun (q : EReg) : s.haltRun.readE q = s.readE q := rfl
@[simp] theorem State.readE_startRun (q : EReg) : s.startRun.readE q = s.readE q := rfl

/-! ### The memories -/

theorem State.dmemByte_congr {s t : State} (h : t.dmem = s.dmem) (hp : t.powerOns = s.powerOns) (a : Nat) :
    t.dmemByte a = s.dmemByte a := by simp [State.dmemByte, h, hp]

theorem State.imemWord_congr {s t : State} (h : t.imem = s.imem) (hp : t.powerOns = s.powerOns) (i : Nat) :
    t.imemWord i = s.imemWord i := by simp [State.imemWord, h, hp]

@[simp] theorem State.dmemByte_writeU (r : UReg) (x : Value) (a : Nat) : (s.writeU r x).dmemByte a = s.dmemByte a := rfl
@[simp] theorem State.dmemByte_writeE (e : EReg) (b : Bool) (a : Nat) : (s.writeE e b).dmemByte a = s.dmemByte a :=
  State.dmemByte_congr (by simp) (by simp) a
@[simp] theorem State.dmemByte_advance (a : Nat) : s.advance.dmemByte a = s.dmemByte a := rfl
@[simp] theorem State.dmemByte_countDraw (a : Nat) : s.countDraw.dmemByte a = s.dmemByte a := rfl
@[simp] theorem State.dmemByte_takeFault (c : FaultCause) (w : Word) (a : Nat) :
    (s.takeFault c w).dmemByte a = s.dmemByte a := rfl
@[simp] theorem State.dmemByte_haltRun (a : Nat) : s.haltRun.dmemByte a = s.dmemByte a := rfl
@[simp] theorem State.dmemByte_startRun (a : Nat) : s.startRun.dmemByte a = s.dmemByte a := rfl
@[simp] theorem State.dmemByte_softReset (a : Nat) : s.softReset.dmemByte a = s.dmemByte a := rfl
@[simp] theorem State.dmemByte_imemWrite (i : Nat) (w : Word) (a : Nat) :
    (s.imemWrite i w).dmemByte a = s.dmemByte a := rfl

@[simp] theorem State.imemWord_writeU (r : UReg) (x : Value) (i : Nat) : (s.writeU r x).imemWord i = s.imemWord i := rfl
@[simp] theorem State.imemWord_writeE (e : EReg) (b : Bool) (i : Nat) : (s.writeE e b).imemWord i = s.imemWord i :=
  State.imemWord_congr (by simp) (by simp) i
@[simp] theorem State.imemWord_advance (i : Nat) : s.advance.imemWord i = s.imemWord i := rfl
@[simp] theorem State.imemWord_countDraw (i : Nat) : s.countDraw.imemWord i = s.imemWord i := rfl
@[simp] theorem State.imemWord_takeFault (c : FaultCause) (w : Word) (i : Nat) :
    (s.takeFault c w).imemWord i = s.imemWord i := rfl
@[simp] theorem State.imemWord_haltRun (i : Nat) : s.haltRun.imemWord i = s.imemWord i := rfl
@[simp] theorem State.imemWord_startRun (i : Nat) : s.startRun.imemWord i = s.imemWord i := rfl
@[simp] theorem State.imemWord_softReset (i : Nat) : s.softReset.imemWord i = s.imemWord i := rfl
@[simp] theorem State.imemWord_memWrite (a n x i : Nat) : (s.memWrite a n x).imemWord i = s.imemWord i := rfl

/-- Which byte a big-endian write leaves at each address (R13). -/
theorem State.dmemByte_memWrite (a n x c : Nat) :
    (s.memWrite a n x).dmemByte c = if a ≤ c ∧ c < a + n then byteOf n (c - a) x else s.dmemByte c := by
  simp only [State.dmemByte, State.memWrite, Memory.lookup_storeBE]
  split <;> rfl

/-- Which word an instruction-memory write leaves at each index (R65). -/
theorem State.imemWord_imemWrite (i : Nat) (w : Word) (j : Nat) :
    (s.imemWrite i w).imemWord j = if j = i then w else s.imemWord j := by
  simp only [State.imemWord, State.imemWrite, Memory.lookup_store]
  split <;> rfl

/-- `MemRead` depends on the bytes it reads alone. -/
theorem State.memRead_congr {s t : State} (n : Nat) : ∀ {a : Nat},
    (∀ c, a ≤ c → c < a + n → t.dmemByte c = s.dmemByte c) → t.memRead a n = s.memRead a n := by
  induction n with
  | zero => intro a _; rfl
  | succ n ih =>
    intro a h
    simp only [State.memRead, h a (by omega) (by omega)]
    rw [ih (fun c h1 h2 => h c (by omega) (by omega))]

/-- An n-byte read is below 2^(8n). -/
theorem State.memRead_lt (n : Nat) : ∀ a : Nat, s.memRead a n < 2 ^ (8 * n) := by
  induction n with
  | zero => intro a; simp [State.memRead]
  | succ n ih =>
    intro a
    have hb := (s.dmemByte a).isLt
    have hr := ih (a + 1)
    have he : (2 : Nat) ^ (8 * (n + 1)) = 2 ^ (8 * n) * 256 := by rw [Nat.mul_succ, Nat.pow_add]
    simp only [State.memRead]
    rw [he]
    calc (s.dmemByte a).toNat * 2 ^ (8 * n) + s.memRead (a + 1) n
        < (s.dmemByte a).toNat * 2 ^ (8 * n) + 2 ^ (8 * n) := by omega
      _ = ((s.dmemByte a).toNat + 1) * 2 ^ (8 * n) := by ring
      _ ≤ 256 * 2 ^ (8 * n) := Nat.mul_le_mul_right _ (by omega)
      _ = 2 ^ (8 * n) * 256 := by ring

/-- A read of the bytes that a big-endian write stored gives the value back, in as many bytes (R13). -/
theorem State.memRead_memWrite (n : Nat) : ∀ (s : State) (a x : Nat),
    (s.memWrite a n x).memRead a n = x % 2 ^ (8 * n) := by
  induction n with
  | zero => intro s a x; simp [State.memRead, Nat.mod_one]
  | succ n ih =>
    intro s a x
    have htail : (s.memWrite a (n + 1) x).memRead (a + 1) n = (s.memWrite (a + 1) n x).memRead (a + 1) n := by
      apply State.memRead_congr
      intro c h1 h2
      rw [State.dmemByte_memWrite, State.dmemByte_memWrite, if_pos ⟨by omega, by omega⟩, if_pos ⟨by omega, by omega⟩]
      simp only [byteOf]
      have : n + 1 - 1 - (c - a) = n - 1 - (c - (a + 1)) := by omega
      rw [this]
    have hhead : (s.memWrite a (n + 1) x).dmemByte a = BitVec.ofNat 8 (x / 2 ^ (8 * n)) := by
      rw [State.dmemByte_memWrite, if_pos ⟨by omega, by omega⟩]
      simp [byteOf]
    simp only [State.memRead, htail, ih, hhead, BitVec.toNat_ofNat]
    have he : (2 : Nat) ^ (8 * (n + 1)) = 2 ^ (8 * n) * 2 ^ 8 := by rw [Nat.mul_succ, Nat.pow_add]
    rw [he, Nat.mod_mul, Nat.mul_comm, Nat.add_comm]

/-! ### Checks and retirement -/

@[simp] theorem firstFault_nil : firstFault [] = none := rfl

@[simp] theorem firstFault_cons (b : Bool) (c : FaultCause) (l : List (Bool × FaultCause)) :
    firstFault ((b, c) :: l) = if b then some c else firstFault l := rfl

/-- All that `retire` can do: it takes the first fault that applies, or commits the effect when none does. -/
theorem State.retire_cases (checks : List (Bool × FaultCause)) (effect : State) :
    (∃ c, firstFault checks = some c ∧ s.retire checks effect = .next (s.takeFault c s.fetch)) ∨
    (firstFault checks = none ∧ s.retire checks effect = .next effect) := by
  unfold State.retire
  cases h : firstFault checks with
  | none => exact .inr ⟨rfl, rfl⟩
  | some c => exact .inl ⟨c, rfl, rfl⟩

/-- With no check that applies, the effect is committed. -/
theorem State.retire_commits {checks : List (Bool × FaultCause)} (effect : State) (h : firstFault checks = none) :
    s.retire checks effect = .next effect := by simp [State.retire, h]

/-- With a first check that applies, its fault is taken with the fetched word. -/
theorem State.retire_faults {checks : List (Bool × FaultCause)} {c : FaultCause} (effect : State)
    (h : firstFault checks = some c) : s.retire checks effect = .next (s.takeFault c s.fetch) := by
  simp [State.retire, h]

/-- `retire` always answers a next state: the unit's own faults are next states (R215). -/
theorem State.retire_next (checks : List (Bool × FaultCause)) (effect : State) :
    ∃ t, s.retire checks effect = .next t := by
  obtain ⟨c, -, h⟩ | ⟨-, h⟩ := s.retire_cases checks effect
  exacts [⟨_, h⟩, ⟨_, h⟩]

/-! ### The host port -/

/-- If a host access answers a next state, it was supported, it was at this unit's addresses, and it acted. -/
theorem State.hostAccess_next {addr size : Nat} {act t : State} (h : s.hostAccess addr size act = .next t) :
    supportedAccess addr size = true ∧ s.ownsAddress addr = true ∧ t = act := by
  unfold State.hostAccess at h
  split at h
  · cases h
  · split at h
    · rename_i h1 h2
      cases h
      exact ⟨by simpa using h1, h2, rfl⟩
    · cases h

end Sys2Proof.Machine
end

