-- ==== Sys2Proof/Laws/PerInstr.lean ====
section
/-! SUPPORT. Facts about every instruction as syntax, one lemma per constructor. -/

namespace Sys2Proof.Laws.EncodesItsRow

/-- The encoded word is the instruction's own row of the opcode table: `w & mask = match` (R94). -/
def Statement (i : Instr) : Prop := encode i &&& i.rowBits.2 = i.rowBits.1

/-- A 16-bit number has none of the upper 16 bits. -/
theorem slot_and_high (x : BitVec 16) : x.setWidth 32 &&& (0xFC7F0000 : Word) = 0 := by
  apply BitVec.eq_of_getLsbD_eq
  intro i hi
  rw [BitVec.getLsbD_and, BitVec.getLsbD_setWidth]
  by_cases h : i < 16
  · have h2 : (0xFC7F0000 : Word).getLsbD i = false := by
      have : ∀ j : Fin 16, (0xFC7F0000 : Word).getLsbD j.val = false := by decide
      exact this ⟨i, h⟩
    rw [h2, Bool.and_false]
    simp
  · simp [BitVec.getLsbD_of_ge x i (by omega)]

theorem replace (ua ub : UReg) (pe : EReg) : Statement (.replace ua ub pe) := by
  revert ua ub pe
  simp only [Statement]
  decide +kernel

theorem swap (ua ub : UReg) (pe : EReg) : Statement (.swap ua ub pe) := by
  revert ua ub pe
  simp only [Statement]
  decide +kernel

theorem add (ua ub : UReg) (pe pd : EReg) : Statement (.add ua ub pe pd) := by
  revert ua ub pe pd
  simp only [Statement]
  decide +kernel

theorem sub (ua ub : UReg) (pe pd : EReg) : Statement (.sub ua ub pe pd) := by
  revert ua ub pe pd
  simp only [Statement]
  decide +kernel

theorem shl1 (ua : UReg) (pd : EReg) : Statement (.shl1 ua pd) := by
  revert ua pd
  simp only [Statement]
  decide +kernel

theorem shr1 (ua : UReg) (pe : EReg) : Statement (.shr1 ua pe) := by
  revert ua pe
  simp only [Statement]
  decide +kernel

theorem recip (ua ub : UReg) : Statement (.recip ua ub) := by
  revert ua ub
  simp only [Statement]
  decide +kernel

theorem cmpEq (ua ub : UReg) (pd : EReg) : Statement (.cmpEq ua ub pd) := by
  revert ua ub pd
  simp only [Statement]
  decide +kernel

theorem cmpNe (ua ub : UReg) (pd : EReg) : Statement (.cmpNe ua ub pd) := by
  revert ua ub pd
  simp only [Statement]
  decide +kernel

theorem cmpLt (ua ub : UReg) (pd : EReg) : Statement (.cmpLt ua ub pd) := by
  revert ua ub pd
  simp only [Statement]
  decide +kernel

theorem cmpLe (ua ub : UReg) (pd : EReg) : Statement (.cmpLe ua ub pd) := by
  revert ua ub pd
  simp only [Statement]
  decide +kernel

theorem cmpGt (ua ub : UReg) (pd : EReg) : Statement (.cmpGt ua ub pd) := by
  revert ua ub pd
  simp only [Statement]
  decide +kernel

theorem cmpGe (ua ub : UReg) (pd : EReg) : Statement (.cmpGe ua ub pd) := by
  revert ua ub pd
  simp only [Statement]
  decide +kernel

theorem par (ua : UReg) (pd : EReg) : Statement (.par ua pd) := by
  revert ua pd
  simp only [Statement]
  decide +kernel

theorem pand (pd pa pb : EReg) : Statement (.pand pd pa pb) := by
  revert pd pa pb
  simp only [Statement]
  decide +kernel

theorem por (pd pa pb : EReg) : Statement (.por pd pa pb) := by
  revert pd pa pb
  simp only [Statement]
  decide +kernel

theorem pxor (pd pa pb : EReg) : Statement (.pxor pd pa pb) := by
  revert pd pa pb
  simp only [Statement]
  decide +kernel

theorem ldcZero (ua : UReg) : Statement (.ldcZero ua) := by
  revert ua
  simp only [Statement]
  decide +kernel

theorem ldcOne (ua : UReg) : Statement (.ldcOne ua) := by
  revert ua
  simp only [Statement]
  decide +kernel

theorem ldbe (ua : UReg) (slot : Nat) : Statement (.ldbe ua slot) := by
  have h : ∀ r : UReg, ((BitVec.ofNat 32 0x0C <<< 26) ||| (BitVec.ofNat 32 r.val <<< 23)) &&& (0xFC7F0000 : Word) =
      0x30000000 := by decide
  simp only [Statement, encode, formatM, Instr.rowBits]
  rw [BitVec.and_comm, BitVec.and_or_distrib_left, BitVec.and_comm, h, BitVec.and_comm, slot_and_high]
  rfl

theorem stbe (ua : UReg) (slot : Nat) : Statement (.stbe ua slot) := by
  have h : ∀ r : UReg, ((BitVec.ofNat 32 0x0D <<< 26) ||| (BitVec.ofNat 32 r.val <<< 23)) &&& (0xFC7F0000 : Word) =
      0x34000000 := by decide
  simp only [Statement, encode, formatM, Instr.rowBits]
  rw [BitVec.and_comm, BitVec.and_or_distrib_left, BitVec.and_comm, h, BitVec.and_comm, slot_and_high]
  rfl

theorem halt : Statement (.halt) := by
  simp only [Statement]
  decide

end Sys2Proof.Laws.EncodesItsRow
end

