-- ==== Sys2Proof/Laws/Step.lean ====
section
/-! SUPPORT. What a step can do, said once (the inversion lemma of `step`), and what fault entry and the frame
predicates come to. -/

namespace Sys2Proof.Machine

/-! ### Frames -/

theorem KeepsU.refl (us : List UReg) (s : State) : KeepsU us s s := fun _ _ => ⟨rfl, rfl⟩
theorem KeepsE.refl (es : List EReg) (s : State) : KeepsE es s s := fun _ _ => rfl
theorem KeepsDmemOutside.refl (a n : Nat) (s : State) : KeepsDmemOutside a n s s := fun _ _ => rfl
theorem KeepsImem.refl (s : State) : KeepsImem s s := fun _ => rfl

/-- `takeFault` is fault entry as R215 describes it. -/
theorem State.takeFault_enters (s : State) (c : FaultCause) (w : Word) : EntersFault c w s (s.takeFault c w) where
  faultCause := rfl
  faultPc := rfl
  faultInsn := rfl
  run := rfl
  pc := rfl
  values := fun _ _ => ⟨rfl, rfl⟩
  predicates := fun _ _ => rfl
  dmem := fun _ _ => rfl
  imem := fun _ => rfl
  hostSide := ⟨rfl, rfl, rfl, rfl, rfl, rfl⟩
  draws := rfl

/-- An instruction whose first check that applies is `c` enters that fault with the fetched word. -/
theorem State.retire_enters (s : State) {checks : List (Bool × FaultCause)} {c : FaultCause} (effect : State)
    (h : firstFault checks = some c) : ∃ t, s.retire checks effect = .next t ∧ EntersFault c s.fetch s t :=
  ⟨_, s.retire_faults effect h, s.takeFault_enters c s.fetch⟩

/-- Writing one value register changes no other. -/
theorem State.writeU_keeps (s : State) (r : UReg) (x : Value) : KeepsU [r] s (s.writeU r x) := by
  intro q hq
  have : r ≠ q := fun h => hq (by simp [h])
  simp [this]

/-- Writing one predicate register changes no other. -/
theorem State.writeE_keeps (s : State) (e : EReg) (b : Bool) : KeepsE [e] s (s.writeE e b) := by
  intro q hq
  have : e ≠ q := fun h => hq (by simp [h])
  by_cases h0 : q = 0
  · subst h0
    simp
  · simp [this, h0]

/-- A big-endian write changes no byte outside the bytes it stores. -/
theorem State.memWrite_keeps (s : State) (a n x : Nat) : KeepsDmemOutside a n s (s.memWrite a n x) := by
  intro c hc
  rw [s.dmemByte_memWrite a n x c, if_neg hc]

/-! ### The inversion of a step -/

/-- All that the sequencer's turn can do: nothing unless RUNNING, else PC_RANGE, else ILLEGAL, else the decoded
instruction (R202, R229). -/
theorem sequence_cases {s t : State} (h : sequence s = .next t) :
    (s.run ≠ .running ∧ t = s) ∨
    (s.run = .running ∧ s.imemWords ≤ s.pc ∧ t = s.takeFault .pcRange 0) ∨
    (s.run = .running ∧ s.pc < s.imemWords ∧ (∃ e, decode s.fetch = .error e) ∧ t = s.takeFault .illegal s.fetch) ∨
    (s.run = .running ∧ s.pc < s.imemWords ∧ ∃ i, decode s.fetch = .ok i ∧ exec i s = .next t) := by
  unfold sequence at h
  split at h
  · rename_i hr
    unfold cycle at h
    split at h
    · rename_i hp
      cases h
      exact .inr (.inl ⟨hr, hp, rfl⟩)
    · rename_i hp
      split at h
      · rename_i i hd
        exact .inr (.inr (.inr ⟨hr, by omega, i, hd, h⟩))
      · rename_i e hd
        cases h
        exact .inr (.inr (.inl ⟨hr, by omega, ⟨e, hd⟩, rfl⟩))
  · rename_i hr
    cases h
    exact .inl ⟨hr, rfl⟩

/-- All that a step can do: the sequencer's turn, a hardware reset, a supported host read, or a supported host write. -/
theorem step_cases {s t : State} (h : step s = .next t) :
    (∃ s', SequencerTurn s s' ∧ sequence s' = .next t) ∨
    (∃ rest, s.host = .hardReset :: rest ∧ t = ({ s with host := rest } : State).hardReset) ∨
    (∃ addr rest, s.host = .read addr 4 :: rest ∧ addr % 4 = 0 ∧ s.ownsAddress addr = true ∧
      t = { s with
        host := rest
        hostData := ({ s with host := rest } : State).hostRead (addr - s.base)
        draws := s.draws + 1 }) ∨
    (∃ addr w rest, s.host = .write addr 4 w :: rest ∧ addr % 4 = 0 ∧ s.ownsAddress addr = true ∧
      t = ({ s with host := rest } : State).hostWrite (addr - s.base) w) := by
  unfold step turn at h
  split at h
  · rename_i hh
    exact .inl ⟨s, .inl ⟨hh, rfl⟩, h⟩
  · rename_i rest hh
    exact .inl ⟨_, .inr ⟨rest, hh, rfl⟩, h⟩
  · rename_i act rest hne hh
    cases act with
    | idle => exact absurd rfl (hne)
    | hardReset =>
      cases h
      exact .inr (.inl ⟨rest, hh, rfl⟩)
    | read addr size =>
      obtain ⟨hs, ho, ht⟩ := State.hostAccess_next _ h
      simp only [supportedAccess, Bool.and_eq_true, decide_eq_true_eq] at hs
      obtain ⟨rfl, ha⟩ := hs
      exact .inr (.inr (.inl ⟨addr, rest, hh, ha, ho, ht⟩))
    | write addr size w =>
      obtain ⟨hs, ho, ht⟩ := State.hostAccess_next _ h
      simp only [supportedAccess, Bool.and_eq_true, decide_eq_true_eq] at hs
      obtain ⟨rfl, ha⟩ := hs
      exact .inr (.inr (.inr ⟨addr, w, rest, hh, ha, ho, ht⟩))

end Sys2Proof.Machine
end

