-- ==== Sys2Proof/Tests/Slice0.lean ====
section
/-! SUPPORT. The model's own tests. Expected results come from 95_test_vectors.md (the row's id stands with each) or
from the rule cited, never from the model. The last part has, for each statement with hypotheses, a witness that
meets them. -/

namespace Sys2Proof.Tests

open Sys2Proof Sys2Proof.Machine

/-! ### Helpers -/

/-- The default instance after reset with some value registers written. -/
def withU (l : List (UReg × Value)) : State := l.foldl (fun s p => s.writeU p.1 p.2) State.reset

/-- `s`, ready to run the word `w` in its next step. -/
def ready (s : State) (w : Nat) : State := s.withFetchWord 32 w

/-- The result is a next state with property `p`. -/
def nextHas (r : Result) (p : State → Bool) : Bool :=
  match r with
  | .next t => p t
  | .fault _ => false
  | .refused _ => false

/-- One step of `w` from `s` gives a next state with property `p`. -/
def runs (s : State) (w : Nat) (p : State → Bool) : Bool := nextHas (step (ready s w)) p

/-- One step of `w` from `s` faults with `c`, recording index 0 and the word, and writes no U register. -/
def faults (s : State) (w : Nat) (c : FaultCause) : Bool :=
  runs s w fun t => decide (t.run = .faulted) && decide (t.faultCause = c) && decide (t.faultPc = 0) &&
    decide (t.faultInsn = BitVec.ofNat 32 w) && decide (t.pc = 0) && decide (t.u = s.u) && decide (t.v = s.v)

/-- 2^256 - 1, the vectors' `A`. -/
def allOnes : Value := BitVec.allOnes 256

/-- 2^255, the vectors' `T`. -/
def topOnly : Value := BitVec.ofNat 256 (2 ^ 255)

/-- An instance with RECIP_CHECK = 0. -/
def unchecked (s : State) : State := { s with cfg := { s.cfg with recipCheck := false } }

/-! ### WellFormed: each check refuses an ill-formed term (R9, R97) -/

theorem test_wf_ldbe_slot : (Instr.ldbe 0 65536).wf = false ∧ (Instr.ldbe 0 65535).wf = true := by decide
theorem test_wf_stbe_slot : (Instr.stbe 7 65536).wf = false ∧ (Instr.stbe 7 65535).wf = true := by decide
theorem test_wf_imem_too_small : ({ Config.standard with imemLog2 := 3 } : Config).wf = false := by decide
theorem test_wf_imem_too_large : ({ Config.standard with imemLog2 := 11 } : Config).wf = false := by decide
theorem test_wf_dmem_too_large : ({ Config.standard with dmemSlotsLog2 := 8 } : Config).wf = false := by decide
theorem test_wf_standard : Config.standard.wf = true := by decide

/-! ### Decoding: every constructor from a word written out from R91, R92 and R94 -/

theorem test_decode_select_swap : decodeTableWord 32 0x04A40000 = some (.replace 1 2 1) ∧
    decodeTableWord 32 0x08180000 = some (.swap 0 1 2) := by decide
theorem test_decode_arithmetic : decodeTableWord 32 0x0CA60000 = some (.add 1 2 1 2) ∧
    decodeTableWord 32 0x10AD0000 = some (.sub 1 2 3 1) := by decide
theorem test_decode_shift : decodeTableWord 32 0x15810000 = some (.shl1 3 1) ∧
    decodeTableWord 32 0x19080000 = some (.shr1 2 2) := by decide
theorem test_decode_recip : decodeTableWord 32 0x1C100000 = some (.recip 0 1) := by decide
theorem test_decode_compare : decodeTableWord 32 0x20110000 = some (.cmpEq 0 1 1) ∧
    decodeTableWord 32 0x20120001 = some (.cmpNe 0 1 2) ∧ decodeTableWord 32 0x21330002 = some (.cmpLt 2 3 3) ∧
    decodeTableWord 32 0x20110003 = some (.cmpLe 0 1 1) ∧ decodeTableWord 32 0x20120004 = some (.cmpGt 0 1 2) ∧
    decodeTableWord 32 0x20130005 = some (.cmpGe 0 1 3) := by decide
theorem test_decode_predicate : decodeTableWord 32 0x24810000 = some (.par 1 1) ∧
    decodeTableWord 32 0x28036000 = some (.pand 3 1 2) ∧ decodeTableWord 32 0x28036001 = some (.por 3 1 2) ∧
    decodeTableWord 32 0x28014002 = some (.pxor 1 1 0) := by decide
theorem test_decode_codec : decodeTableWord 32 0x2E800000 = some (.ldcZero 5) ∧
    decodeTableWord 32 0x2F000001 = some (.ldcOne 6) ∧ decodeTableWord 32 0x3000FFFF = some (.ldbe 0 65535) ∧
    decodeTableWord 32 0x3780FFFF = some (.stbe 7 65535) := by decide
theorem test_decode_halt : decodeTableWord 32 0xFC000000 = some .halt := by decide

/-- ENC vectors that are ILLEGAL: reserved OP, a field that must be zero, a reserved FN. -/
theorem test_decode_illegal :
    [0x00000000, 0xFFFFFFFF, 0xFC000001, 0x04A40010, 0x04A50000, 0x0CA34000, 0x15840000, 0x15900000, 0x19090000,
      0x1C140000, 0x20110006, 0x2001000F, 0x24910000, 0x28036003, 0x28836000, 0x2F000002, 0x2F010001, 0x30010000,
      0x38000000, 0xF8000000].all (fun w => (decodeTableWord 32 w).isNone) = true := by decide

theorem test_encode_words : encode (.add 1 2 0 3) = 0x0CA30000 ∧ encode (.sub 1 2 3 1) = 0x10AD0000 ∧
    encode (.replace 2 1 1) = 0x05140000 ∧ encode (.pxor 2 2 2) = 0x2802A002 ∧ encode (.ldbe 5 0) = 0x32800000 ∧
    encode (.cmpGe 2 5 1) = 0x21510005 ∧ encode .halt = 0xFC000000 := by decide

/-! ### The instructions, one step each (L2 vectors) -/

/-- SEL-1. -/
theorem test_replace_enabled :
    runs ((withU [(1, 5), (2, 9)]).writeE 1 true) 0x04A40000 (fun t => decide (t.readU 1 = 9 ∧ t.pc = 1)) = true := by decide
/-- SEL-3 and SEL-4. -/
theorem test_replace_unwritten_receiver :
    runs (withU [(2, 9)]) 0x04A00000 (fun t => decide (t.readU 1 = 9) && t.valid 1) = true ∧
    faults ((withU [(2, 9)]).writeE 1 true) 0x04A40000 .uninit = true := by decide
/-- SEL-7 and SEL-8. -/
theorem test_swap :
    runs ((withU [(0, 3), (1, 7)]).writeE 2 true) 0x08180000 (fun t => decide (t.readU 0 = 7 ∧ t.readU 1 = 3)) = true ∧
    runs (withU [(0, 3), (1, 7)]) 0x08180000 (fun t => decide (t.readU 0 = 3 ∧ t.readU 1 = 7)) = true := by decide
/-- SEL-10. -/
theorem test_swap_same_register :
    runs ((withU [(4, 6)]).writeE 3 true) 0x0A4C0000 (fun t => decide (t.readU 4 = 6)) = true := by decide
/-- ADD-1 and ADD-7. -/
theorem test_add_carry :
    runs (withU [(1, allOnes), (2, 1)]) 0x0CA30000 (fun t => decide (t.readU 1 = 0) && t.readE 3) = true ∧
    runs ((withU [(1, 7), (2, 8)]).writeE 1 true) 0x0CA50000 (fun t => decide (t.readU 1 = 15) && !t.readE 1) = true := by
  decide
/-- ADD-6: a disabled ADD writes carry 0 although the sum overflows (C1). -/
theorem test_add_disabled_carry :
    runs ((withU [(1, allOnes), (2, 1)]).writeE 2 true) 0x0CA60000
      (fun t => decide (t.readU 1 = allOnes) && !t.readE 2) = true := by decide
/-- SUB-1 and SUB-6. -/
theorem test_sub_borrow :
    runs (withU [(1, 0), (2, 1)]) 0x10A10000 (fun t => decide (t.readU 1 = allOnes) && t.readE 1) = true ∧
    runs (withU [(1, 0), (2, 1)]) 0x10AD0000 (fun t => decide (t.readU 1 = 0) && !t.readE 1) = true := by decide
/-- SH-1 and SH-3. -/
theorem test_shl1 :
    runs (withU [(3, topOnly)]) 0x15810000 (fun t => decide (t.readU 3 = 0) && t.readE 1) = true ∧
    runs (withU [(3, 0x80000000)]) 0x15810000 (fun t => decide (t.readU 3 = 0x100000000) && !t.readE 1) = true := by decide
/-- SH-6 and SH-7. -/
theorem test_shr1 :
    runs ((withU [(2, 7)]).writeE 2 true) 0x19080000 (fun t => decide (t.readU 2 = 3)) = true ∧
    runs (withU [(2, 7)]) 0x19080000 (fun t => decide (t.readU 2 = 7)) = true := by decide
set_option maxRecDepth 20000 in
/-- RC-1 and RC-8: 6 * 2 = 12 = 1 modulo 11; the inverse of 2 modulo 2^256 - 1 is 2^255. -/
theorem test_recip_inverse :
    runs (withU [(0, 6), (1, 11)]) 0x1C100000 (fun t => decide (t.readU 0 = 2)) = true ∧
    runs (withU [(0, 2), (1, allOnes)]) 0x1C100000 (fun t => decide (t.readU 0 = topOnly)) = true := by decide +kernel
/-- RC-7, RC-12 and RC-14. -/
theorem test_recip_precondition :
    faults (withU [(0, 3), (1, allOnes)]) 0x1C100000 .recipPrecond = true ∧
    faults (withU [(0, 11), (1, 11)]) 0x1C100000 .recipPrecond = true ∧
    faults (withU [(0, 0), (1, 0)]) 0x1C100000 .recipPrecond = true := by decide +kernel
/-- CMP-6 and the row CMPM-5 of the condition matrix: A and A - 1. -/
theorem test_compare_ordering :
    runs ((withU [(2, topOnly), (3, 1)]).writeE 3 true) 0x21330002 (fun t => !t.readE 3) = true ∧
    [0x20110000, 0x20110001, 0x20110002, 0x20110003, 0x20110004, 0x20110005].map
      (fun w => runs (withU [(0, allOnes), (1, allOnes - 1)]) w (fun t => t.readE 1)) =
      [false, true, false, false, true, true] := by decide
/-- CMPM-1: 5 and 5; and CMP-5. -/
theorem test_compare_equal :
    [0x20110000, 0x20110001, 0x20110002, 0x20110003, 0x20110004, 0x20110005].map
      (fun w => runs (withU [(0, 5), (1, 5)]) w (fun t => t.readE 1)) = [true, false, false, true, false, true] ∧
    faults (withU [(0, 5)]) 0x20110001 .uninit = true := by decide
/-- PR-1, PR-2 and PR-3. -/
theorem test_par :
    runs ((withU [(1, 6)]).writeE 1 true) 0x24810000 (fun t => !t.readE 1) = true ∧
    runs (withU [(1, allOnes)]) 0x24810000 (fun t => t.readE 1) = true ∧
    faults State.reset 0x24810000 .uninit = true := by decide
/-- PR-4, PR-5, PR-6 and PR-10. -/
theorem test_predicate_logic :
    runs ((State.reset.writeE 1 true).writeE 3 true) 0x28036000 (fun t => !t.readE 3) = true ∧
    runs (State.reset.writeE 1 true) 0x28036001 (fun t => t.readE 3) = true ∧
    runs (State.reset.writeE 1 true) 0x28014002 (fun t => !t.readE 1) = true ∧
    runs (State.reset.writeE 1 true) 0x28006001 (fun t => t.readE 0 && t.readE 1 && !t.readE 2 && !t.readE 3) = true := by
  decide
/-- CD-9 and CD-10. -/
theorem test_constants :
    runs (withU [(5, 9)]) 0x2E800000 (fun t => decide (t.readU 5 = 0)) = true ∧
    runs State.reset 0x2F000001 (fun t => decide (t.readU 6 = 1) && t.valid 6) = true := by decide
/-- CD-2: bytes 00 01 02 .. 1F of slot 0. -/
theorem test_ldbe_big_endian :
    runs { State.reset with dmem := (List.range 32).map (fun k => (k, BitVec.ofNat 8 k)) } 0x30800000
      (fun t => decide (t.readU 1 = 0x000102030405060708090A0B0C0D0E0F101112131415161718191A1B1C1D1E1F)) = true := by
  decide +kernel
/-- CD-5 and CD-8: the first slot outside a 32-slot and a 1-slot DMEM. -/
theorem test_ldbe_range :
    faults State.reset 0x30800020 .dmemRange = true ∧
    faults (State.resetOf { Config.standard with dmemSlotsLog2 := 0 }) 0x30800001 .dmemRange = true := by decide
/-- CD-4: byte 992 = 0x00 and byte 1023 = 0x1F. -/
theorem test_stbe_big_endian :
    runs (withU [(0, 0x000102030405060708090A0B0C0D0E0F101112131415161718191A1B1C1D1E1F)]) 0x3400001F
      (fun t => decide (t.dmemByte 992 = 0x00 ∧ t.dmemByte 993 = 0x01 ∧ t.dmemByte 1023 = 0x1F)) = true := by decide +kernel
/-- CD-6 and CD-7. -/
theorem test_stbe_faults :
    faults (withU [(0, 1)]) 0x3400FFFF .dmemRange = true ∧ faults State.reset 0x3780FFFF .uninit = true := by decide
/-- FP-8. -/
theorem test_halt :
    runs State.reset 0xFC000000 (fun t => decide (t.run = .halted ∧ t.pc = 0 ∧ t.regStatus = 0x00000102)) = true := by
  decide

/-! ### Fault priority (FP vectors) and the execution cycle -/

theorem test_fault_priority :
    faults (withU [(1, 5)]) 0x0C914000 .illegal = true ∧ faults State.reset 0x0C910000 .aliased = true ∧
    faults (withU [(1, 12)]) 0x1C100000 .uninit = true ∧ faults State.reset 0x1C940000 .illegal = true ∧
    faults State.reset 0x30810020 .illegal = true ∧ faults State.reset 0x00000000 .illegal = true := by decide
/-- FP-7, its second step: IMEM_LOG2 = 4, PC = 16. -/
theorem test_pc_range :
    nextHas (step { State.resetOf { Config.standard with imemLog2 := 4 } with run := .running, pc := 16 })
      (fun t => decide (t.run = .faulted ∧ t.faultCause = .pcRange ∧ t.faultPc = 16 ∧ t.faultInsn = 0 ∧
        t.regStatus = 0x00000104)) = true := by decide
/-- R229: an IDLE unit stays as it is. -/
theorem test_idle_stutters : step State.reset = .next State.reset := rfl

/-! ### The host port -/

/-- CONFIG of the default instance reads 0x0000015A (95_test_vectors.md, conventions). -/
theorem test_config : nextHas (hostReads State.reset 0x008) (fun t => decide (t.hostData = 0x0000015A)) = true := by decide
/-- R43: STATUS reads 0x00000100 after reset. -/
theorem test_status : nextHas (hostReads State.reset 0x014) (fun t => decide (t.hostData = 0x00000100)) = true := by decide
/-- P1's transcript, step 3: the last word of a slot holds its low 32 bits. -/
theorem test_window_lanes :
    nextHas (hostWrites State.reset 0x103C 0x00000005) (fun t => decide (t.dmemByte 63 = 5 ∧ t.dmemByte 60 = 0)) = true := by
  decide
/-- P1's transcript, step 12: W1C of DONE. -/
theorem test_acknowledge :
    nextHas (hostWrites { State.reset with run := .halted } 0x014 2) (fun t => decide (t.run = .idle)) = true := by decide
/-- R42: a write with SOFT_RESET = 1 and START = 1 performs the soft reset only. -/
theorem test_soft_reset_wins :
    nextHas (hostWrites (withU [(0, 5)]) 0x010 3) (fun t => decide (t.run = .idle) && !t.valid 0) = true := by decide
/-- R50: a window read while RUNNING returns 0. -/
theorem test_busy_window :
    nextHas (hostReads { State.reset with run := .running, imem := [(0, 7)] } 0x2000)
      (fun t => decide (t.hostData = 0)) = true := by decide
/-- R220. -/
theorem test_irq : ({ State.reset with irqEn := true, run := .halted } : State).irq = true ∧
    ({ State.reset with irqEn := true, run := .running } : State).irq = false := by decide
/-- R68, S9. -/
theorem test_unaligned_refused :
    step { State.reset with host := [.read 2 4] } = .refused .hostAccessUnsupported ∧
    step { State.reset with host := [.write 0x010 1 1] } = .refused .hostAccessUnsupported := ⟨rfl, rfl⟩

/-! ### The assembler -/

/-- P5's source with its two slots, and its listing. -/
theorem test_assemble_p5 :
    (match assemble ".slot 0
.u256 AAAAAAAAAAAAAAAAAAAAAAAAAAAAAAAAAAAAAAAAAAAAAAAAAAAAAAAAAAAAAAAA
LDC.ONE U0
STBE U0, 0
SHL1 U1 -> E1             ; U1 never written: UNINIT
stbe u0, 1
HALT".toList with
      | .ok img => decide (img.words = [(0, 0x2C000001), (1, 0x34000000), (2, 0x14810000), (3, 0x34000001), (4, 0xFC000000)])
          && decide (img.slots.map (·.1) = [0])
      | .error _ => false) = true := by decide +kernel
/-- R112: the errors, and what is no error. -/
theorem test_assembler_errors :
    (["FOO U1", "ADD U8, U1", "ADD U1", "LDBE U1, 65536", ".u256 12", ".org 0\nNOP\n.org 0\nNOP"].map
      (fun src => (assemble src.toList).toOption.isNone)).all id = true ∧
    (["ADD U1, U1", "LDBE U1, 65535"].map (fun src => (assemble src.toList).toOption.isSome)).all id = true := by
  decide +kernel

/-- Log 22: directive names and the 0x prefix in capitals; the index after a `.word`; an index past the memory of a 16-word instance, which the
image then does not fit. -/
theorem test_assembler_choices :
    (match assemble ".ORG 0X10
.word 0x15840000
halt".toList with
      | .ok img => decide (img.words = [(16, 0x15840000), (17, 0xFC000000)]) && img.fits Config.standard &&
          !img.fits { Config.standard with imemLog2 := 4 }
      | .error _ => false) = true := by decide

/-! ### Witnesses: for each statement with hypotheses, states and operands that meet them, clause by clause -/

/-- ReplaceSelectsByEnable: PE = 0 with an unwritten receiver, PE = 3 with both written, and both ways to fault. -/
theorem witness_ReplaceSelectsByEnable :
    ((withU [(2, 9)]).valid 2 = true ∧ ((0 : EReg) ≠ 0 → (withU [(2, 9)]).valid 1 = true)) ∧
    ((withU [(0, 1), (7, 9)]).valid 7 = true ∧ ((3 : EReg) ≠ 0 → (withU [(0, 1), (7, 9)]).valid 0 = true)) ∧
    (withU [(1, 5)]).valid 2 = false ∧ ((1 : EReg) ≠ 0 ∧ (withU [(2, 9)]).valid 1 = false) := by decide

/-- SwapExchangesByEnable, ComparesWriteUnsignedRelation: both written (also UA = UB), and each one unwritten. -/
theorem witness_SwapExchangesByEnable :
    ((withU [(0, 3), (7, 8)]).valid 0 = true ∧ (withU [(0, 3), (7, 8)]).valid 7 = true) ∧
    (withU [(0, 3)]).valid 7 = false ∧ (withU [(7, 3)]).valid 0 = false := by decide

/-- CompareRule's three clauses. -/
theorem witness_ComparesWriteUnsignedRelation :
    ((withU [(0, allOnes), (7, 0)]).valid 0 = true ∧ (withU [(0, allOnes), (7, 0)]).valid 7 = true) ∧
    (withU [(0, 3)]).valid 7 = false ∧ (withU [(7, 3)]).valid 0 = false ∧ (3 : EReg) ≠ 0 := by decide

/-- AddWritesSumAndCarry: the three clauses. -/
theorem witness_AddWritesSumAndCarry :
    ((0 : UReg) ≠ 7 ∧ (withU [(0, allOnes), (7, 1)]).valid 0 = true ∧ (withU [(0, allOnes), (7, 1)]).valid 7 = true) ∧
    (1 : UReg) = 1 ∧ ((1 : UReg) ≠ 2 ∧ (withU [(1, 5)]).valid 2 = false) ∧ (1 : EReg) ≠ 0 := by decide

/-- SubWritesDifferenceAndBorrow: the three clauses. -/
theorem witness_SubWritesDifferenceAndBorrow :
    ((7 : UReg) ≠ 0 ∧ (withU [(7, 0), (0, 1)]).valid 7 = true ∧ (withU [(7, 0), (0, 1)]).valid 0 = true) ∧
    (3 : UReg) = 3 ∧ ((0 : UReg) ≠ 2 ∧ (withU [(2, 1)]).valid 0 = false) ∧ (3 : EReg) ≠ 0 := by decide

/-- ShiftLeftDoublesAndReportsTopBit, ShiftRightHalvesByEnable, ParityWritesBitZero, ShiftRoundTrips: a written and an
unwritten register. -/
theorem witness_ShiftLeftDoublesAndReportsTopBit :
    (withU [(7, topOnly)]).valid 7 = true ∧ (withU [(7, topOnly)]).valid 0 = false ∧ (1 : EReg) ≠ 0 ∧
    (3 : EReg) ≠ 0 := by decide

theorem witness_ShiftRightHalvesByEnable :
    (withU [(0, 7)]).valid 0 = true ∧ (withU [(0, 7)]).valid 7 = false := by decide

theorem witness_ParityWritesBitZero :
    (withU [(0, 7)]).valid 0 = true ∧ (withU [(0, 7)]).valid 7 = false ∧ (3 : EReg) ≠ 0 := by decide

theorem witness_ShiftRoundTrips :
    (withU [(0, topOnly)]).valid 0 = true ∧ (withU [(7, allOnes)]).valid 7 = true ∧ (2 : EReg) ≠ 0 := by decide

/-- RecipComputesModularInverse, first clause: m = 2^256 - 1 with t = 2, m = 11 with t = 10, and m = 1 with t = 0. -/
theorem witness_RecipComputesModularInverse_valid :
    (let s := withU [(0, 2), (1, allOnes), (2, 10), (3, 11), (4, 0), (5, 1)]
     (s.readU 1).toNat % 2 = 1 ∧ (s.readU 0).toNat < (s.readU 1).toNat ∧ (s.readU 0).toNat ≠ 0 ∧
     Nat.gcd (s.readU 0).toNat (s.readU 1).toNat = 1 ∧ s.valid 0 = true ∧ s.valid 1 = true ∧
     (s.readU 2).toNat < (s.readU 3).toNat ∧ Nat.gcd (s.readU 2).toNat (s.readU 3).toNat = 1 ∧
     (s.readU 4).toNat = 0 ∧ (s.readU 5).toNat % 2 = 1 ∧ (s.readU 4).toNat < (s.readU 5).toNat) := by decide +kernel

/-- RecipComputesModularInverse, second clause: an even modulus, t = m, and a common factor, on both instances. -/
theorem witness_RecipComputesModularInverse_invalid :
    (let s := withU [(0, 3), (1, 12), (2, 9)]
     ¬((s.readU 1).toNat % 2 = 1) ∧ ¬((s.readU 2).toNat < (s.readU 2).toNat) ∧
     ¬((s.readU 0).toNat = 0 ∨ Nat.gcd (s.readU 0).toNat (s.readU 2).toNat = 1) ∧
     s.valid 0 = true ∧ s.valid 1 = true ∧ s.valid 2 = true ∧ s.valid 7 = false ∧
     s.cfg.recipCheck = true ∧ (unchecked s).cfg.recipCheck = false) := by decide +kernel

theorem witness_RecipOfZeroIsZero :
    (let s := withU [(0, 0), (1, 1), (2, allOnes)]
     s.valid 0 = true ∧ s.valid 1 = true ∧ s.readU 0 = 0 ∧ (s.readU 1).toNat % 2 = 1 ∧ (s.readU 2).toNat % 2 = 1) := by
  decide

theorem witness_TwoPredicateInstructionsSuffice :
    ((3 : EReg) ≠ 0 ∧ (3 : EReg) ≠ 1 ∧ (3 : EReg) ≠ 2) ∧
    ((1 : EReg) ≠ 0 ∧ (2 : EReg) ≠ 0 ∧ (1 : EReg) ≠ 2 ∧ (withU [(0, 7), (1, 3)]).valid 0 = true ∧
      (withU [(0, 7), (1, 3)]).valid 1 = true) := by decide

theorem witness_PredicateLogicWritesResult : (3 : EReg) ≠ 0 := by decide

/-- IllegalWordsAreTheReservedOnes, second clause: a word of zeros at the last index of IMEM. -/
theorem witness_IllegalWordsAreTheReservedOnes :
    (let s : State := { State.reset with run := .running, pc := 1023, imem := [(1023, 0)] }
     s.run = .running ∧ s.pc < s.imemWords ∧ reservedOp (fieldOP s.fetch) = true ∧ s.host = []) :=
  ⟨rfl, by decide, rfl, rfl⟩

/-- LoadReadsBigEndianSlot: the last slot inside and the first outside a 32-slot DMEM, and the largest SLOT. -/
theorem witness_LoadReadsBigEndianSlot :
    31 < State.reset.dmemSlots ∧ State.reset.dmemSlots ≤ 32 ∧ 65535 < 65536 := by decide

theorem witness_StoreWritesBigEndianSlot :
    ((withU [(7, 1)]).valid 7 = true ∧ 31 < (withU [(7, 1)]).dmemSlots) ∧ State.reset.valid 7 = false ∧
    ((withU [(7, 1)]).valid 7 = true ∧ (withU [(7, 1)]).dmemSlots ≤ 32) := by decide

theorem witness_SlotRoundTrips : 31 < State.reset.dmemSlots ∧
    ((withU [(0, 6)]).valid 0 = true ∧ 0 < (withU [(0, 6)]).dmemSlots) := by decide

/-- HaltEndsTheRun: IRQ_EN = 1, and HALT's word with its lowest and its highest reserved bit set. -/
theorem witness_HaltEndsTheRun : ({ State.reset with irqEn := true } : State).irqEn = true ∧
    (fieldOP 0xFC000001 = 0x3F ∧ (0xFC000001 : Word) ≠ 0xFC000000) ∧
    (fieldOP 0xFE000000 = 0x3F ∧ (0xFE000000 : Word) ≠ 0xFC000000) := by decide

/-- InstructionsFaultOrComplete: each of the four causes, and none. -/
theorem witness_InstructionsFaultOrComplete_aliased : ReportedCause State.reset (.add 1 1 0 0) .aliased :=
  .inl ⟨rfl, rfl⟩
theorem witness_InstructionsFaultOrComplete_uninit : ReportedCause State.reset (.stbe 7 65535) .uninit :=
  .inr (.inl ⟨id, ⟨7, by decide⟩, rfl⟩)
theorem witness_InstructionsFaultOrComplete_range : ReportedCause State.reset (.ldbe 0 32) .dmemRange :=
  .inr (.inr (.inl ⟨id, by decide, (by show State.reset.dmemSlots ≤ 32; decide), rfl⟩))
theorem witness_InstructionsFaultOrComplete_precond :
    ReportedCause (withU [(0, 3), (1, 9)]) (.recip 0 1) .recipPrecond :=
  .inr (.inr (.inr ⟨id, by decide, ⟨by decide, by decide +kernel⟩, rfl⟩))
theorem witness_InstructionsFaultOrComplete_none : NoCause (withU [(1, 5), (2, 6)]) (.add 1 2 0 3) :=
  ⟨(by show ¬((1 : UReg) = 2); decide), by decide, id, id⟩

theorem witness_EveryInstructionKeepsItsFrame : exec .halt State.reset = .next State.reset.haltRun := rfl

/-- UnwrittenPatternIsUnobservable: the first and the last register after reset, and one of a RUNNING unit whose host
reads PC. -/
theorem witness_UnwrittenPatternIsUnobservable :
    State.reset.valid 0 = false ∧ State.reset.valid 7 = false ∧
    (let s : State := { ready (withU [(0, 1)]) 0x14000000 with host := [.read 0x01C 4] }
     s.valid 1 = false ∧ s.run = .running) := by decide

theorem witness_DecodeOfEncode : (Instr.stbe 7 65535).wf = true ∧ (Instr.add 0 7 3 0).wf = true := by decide

theorem witness_EncodeOfDecode : decode 0xFC000000 = .ok .halt := rfl

theorem witness_OpcodeRowsNeverOverlap :
    (⟨"HALT", 0xFC000000, 0xFFFFFFFF, fun _ => .halt⟩ : Row) ∈ opcodeTable ∧
    (⟨"HALT", 0xFC000000, 0xFFFFFFFF, fun _ => .halt⟩ : Row).fits 0xFC000000 = true :=
  ⟨by simp [opcodeTable], by decide⟩

/-- The states of the sequencer's statements: RUNNING at index 0 with a word there, and its two kinds of turn. -/
theorem witness_StepRunsDecodedInstruction :
    SequencerTurn (ready State.reset 0x2C000001) (ready State.reset 0x2C000001) ∧
    (ready State.reset 0x2C000001).run = .running ∧
    (ready State.reset 0x2C000001).pc < (ready State.reset 0x2C000001).imemWords ∧
    decode (ready State.reset 0x2C000001).fetch = .ok (.ldcOne 0) := ⟨.inl ⟨rfl, rfl⟩, rfl, by decide, rfl⟩

/-- The sequencer's turn as an idle action of the host, at the last index of IMEM. -/
theorem witness_StepRunsDecodedInstruction_idle :
    SequencerTurn { State.reset with run := .running, pc := 1023, imem := [(1023, 0xFC000000)], host := [.idle] }
      { State.reset with run := .running, pc := 1023, imem := [(1023, 0xFC000000)], host := [] } :=
  .inr ⟨[], rfl, rfl⟩

/-- StepReportsFirstCause: PC = IMEM_WORDS, an illegal word at PC = IMEM_WORDS - 1, and a decoded word with a cause. -/
theorem witness_StepReportsFirstCause :
    ({ State.reset with run := .running, pc := 1024 } : State).imemWords ≤ 1024 ∧
    (let s : State := { State.reset with run := .running, pc := 1023, imem := [(1023, 0)] }
     s.pc < s.imemWords ∧ decode s.fetch = .error .reservedOp) ∧
    decode (ready State.reset 0x0C910000).fetch = .ok (.add 1 1 0 1) ∧
    ReportedCause (ready State.reset 0x0C910000) (.add 1 1 0 1) .aliased :=
  ⟨by decide, ⟨by decide, rfl⟩, rfl, .inl ⟨rfl, rfl⟩⟩

theorem witness_StoppedUnitKeepsItsState :
    SequencerTurn State.reset State.reset ∧ State.reset.run ≠ .running := ⟨.inl ⟨rfl, rfl⟩, by decide⟩

theorem witness_SequencerNeverWritesImem :
    SequencerTurn State.reset State.reset ∧ step State.reset = .next State.reset := ⟨.inl ⟨rfl, rfl⟩, rfl⟩

/-- OnlyStartEntersRunning: a START from IDLE. -/
theorem witness_OnlyStartEntersRunning :
    State.reset.run ≠ .running ∧
    step { State.reset with host := [.write 0x010 4 1] } = .next State.reset.startRun ∧
    State.reset.startRun.run = .running := ⟨by decide, rfl, rfl⟩

/-- RunningPcOnlyAdvances: an instruction that goes on, and a host read while RUNNING. -/
theorem witness_RunningPcOnlyAdvances :
    (ready State.reset 0x2C000001).run = .running ∧
    nextHas (step (ready State.reset 0x2C000001)) (fun t => decide (t.run = .running)) = true ∧
    nextHas (step { ready State.reset 0x2C000001 with host := [.read 0 4] }) (fun t => decide (t.run = .running)) = true := by
  decide

/-- EveryRunEnds: at PC = IMEM_WORDS with no host action, and at index 0 with a host that waits, polls the last word of
the interface, writes its first one and resets the unit. -/
theorem witness_EveryRunEnds :
    (let s : State := { State.reset with run := .running, pc := 1024 }
     s.run = .running ∧ s.host = [] ∧ s.pc ≤ s.imemWords) ∧
    ([.idle, .read 0x3FFC 4] : List HostAct).Forall (fun a => ActSupported State.reset.base a ∧ ActPolls a) ∧
    ([.write 0 4 0, .hardReset] : List HostAct).Forall (ActSupported State.reset.base) := by
  refine ⟨by decide, ⟨⟨trivial, trivial⟩, ?_, trivial⟩, ?_, trivial⟩ <;> show _ = _ ∧ _ <;> decide

/-- ControlFlowIgnoresData: two states with different values in U0. -/
theorem witness_ControlFlowIgnoresData :
    SameControl (ready (withU [(0, 3)]) 0x14010000) (ready (withU [(0, allOnes)]) 0x14010000) ∧
    (ready (withU [(0, 3)]) 0x14010000).host = [] :=
  ⟨⟨rfl, rfl, rfl, rfl, rfl, rfl, rfl, rfl, rfl, rfl, rfl⟩, rfl⟩

/-- StepKeepsLegal: a legal RUNNING state whose step is an instruction. -/
theorem witness_StepKeepsLegal :
    Legal (ready State.reset 0x2C000001) ∧
    nextHas (step (ready State.reset 0x2C000001)) (fun t => decide (t.pc = 1)) = true :=
  ⟨{ cfg := rfl
     imemWf := rfl
     imemWithin := by decide
     dmemWf := rfl
     dmemWithin := rfl
     pcRange := Nat.zero_le _
     startRange := Nat.two_pow_pos _
     faultPcRange := Nat.zero_le _
     runningStart := fun _ => Nat.le_refl 0
     runningClear := fun _ => rfl
     haltedClear := fun h => nomatch h
     faultedCause := fun h => nomatch h
     clearRecord := fun _ => ⟨rfl, rfl⟩
     pcRangeRecord := by decide
     pcRangeInsn := fun h => nomatch h }, by decide⟩

theorem witness_StepKeepsInstance : step State.reset = .next State.reset := rfl

/-- ResetsReachResetValues, SoftResetErasesSecrets: SOFT_RESET = 1 with IRQ_EN = 0, with and without START. -/
theorem witness_ResetsReachResetValues :
    (2 : Word).getLsbD 1 = true ∧ (2 : Word).getLsbD 2 = false ∧ (3 : Word).getLsbD 1 = true := by decide

theorem witness_SoftResetErasesSecrets :
    SameAcrossReset (withU [(0, 3)]) (withU [(0, allOnes)]) ∧ (2 : Word).getLsbD 1 = true :=
  ⟨⟨rfl, rfl, rfl, rfl, rfl, rfl, rfl⟩, by decide⟩

theorem witness_StartBeginsARun :
    ((5 : Word).getLsbD 0 = true ∧ (5 : Word).getLsbD 1 = false ∧ State.reset.run ≠ .running) ∧
    ((1 : Word).getLsbD 1 = false ∧ State.reset.startRun.run = .running) := by decide

theorem witness_StatusReadsAndClears :
    ((State.reset.haltRun).run = .halted ∧ (2 : Word).getLsbD 1 = true) ∧
    ((State.reset.takeFault .illegal 0).run = .faulted ∧ (4 : Word).getLsbD 2 = true) ∧
    ¬((State.reset.run = .halted ∧ (6 : Word).getLsbD 1 = true) ∨ (State.reset.run = .faulted ∧ (6 : Word).getLsbD 2 = true)) := by
  decide

theorem witness_StartPcHoldsAnIndex :
    State.reset.run ≠ .running ∧ State.reset.startRun.run = .running ∧
    (let s : State := { State.reset with startPc := 1023 }
     s.cfg.wf = true ∧ s.startPc < s.imemWords ∧ step s = .next s) := ⟨by decide, rfl, by decide, by decide, rfl⟩

theorem witness_IdentityRegistersRead : State.reset.cfg.wf = true := by decide

theorem witness_FaultRegistersReadBack :
    (let s : State := { State.reset with faultPc := 1024, faultCause := .pcRange }
     s.cfg.wf = true ∧ s.faultPc ≤ s.imemWords) := by decide

/-- PcReadIsAnIndexReached: IDLE, and RUNNING with PC = START_PC and PC = IMEM_WORDS. -/
theorem witness_PcReadIsAnIndexReached :
    (State.reset.cfg.wf = true ∧ State.reset.pc ≤ State.reset.imemWords ∧ State.reset.run ≠ .running) ∧
    (let s : State := { State.reset with run := .running, startPc := 1023, pc := 1023 }
     s.pc ≤ s.imemWords ∧ s.run = .running ∧ s.startPc ≤ s.pc) ∧
    (let s : State := { State.reset with run := .running, startPc := 0, pc := 1024 }
     s.pc ≤ s.imemWords ∧ s.run = .running ∧ s.startPc ≤ s.pc) := by decide

/-- ReservedOffsetsAreInert: both ends of each reserved range of the default instance, and the read-only offsets. -/
theorem witness_ReservedOffsetsAreInert :
    [0x00C, 0x02C, 0xFFC, 0x1400, 0x1FFC, 0x3000, 0x3FFC].all (fun off => decide (off % 4 = 0 ∧
      (off = 0x00C ∨ (0x02C ≤ off ∧ off < 0x1000) ∨ (0x1000 + State.reset.dmemBytes ≤ off ∧ off < 0x2000) ∨
        (0x2000 + 4 * State.reset.imemWords ≤ off ∧ off < 0x3000) ∨ (0x3000 ≤ off ∧ off < 0x4000)))) = true ∧
    (let s := State.resetOf { Config.standard with imemLog2 := 4 }
     0x2000 + 4 * s.imemWords ≤ 0x2040 ∧ 0x2040 < 0x3000) := by decide

/-- WindowsReadAndWriteTheMemories: the first and last words of both windows. -/
theorem witness_WindowsReadAndWriteTheMemories :
    State.reset.cfg.wf = true ∧ State.reset.run ≠ .running ∧ (0 < State.reset.dmemBytes ∧ 0 % 4 = 0) ∧
    (1020 < State.reset.dmemBytes ∧ 1020 % 4 = 0) ∧ 31 < State.reset.dmemSlots ∧ 7 < 8 ∧
    0 < State.reset.imemWords ∧ 1023 < State.reset.imemWords := by decide

theorem witness_BusyUnitLocksTheHostOut :
    State.reset.startRun.run = .running ∧ (0x1000 : Nat) % 4 = 0 ∧ (0x2FFC : Nat) % 4 = 0 ∧ 0x2FFC < 0x3000 ∧
    (0x014 : Nat) % 4 = 0 ∧ (0x018 : Nat) % 4 = 0 := by decide

theorem witness_HostReadsHaveNoSideEffect : 0x3FFC < 0x4000 ∧ (0x3FFC : Nat) % 4 = 0 := by decide

theorem witness_UnsupportedHostAccessIsRefused :
    ((2 : Nat) ≠ 4 ∨ (0 : Nat) % 4 ≠ 0) ∧ ((4 : Nat) ≠ 4 ∨ (3 : Nat) % 4 ≠ 0) ∧
    ({ State.reset with host := [.read 3 4] } : State).host = .read 3 4 :: [] ∧
    ({ State.reset with host := [.write 0 2 1] } : State).host = .write 0 2 1 :: [] := by decide

/-- IrqFollowsTheRunState: HALT, a fault, a write of IRQ_EN, the acknowledgement, START and SOFT_RESET. -/
theorem witness_IrqFollowsTheRunState :
    nextHas (exec .halt State.reset) (fun t => decide (t.run = .halted)) = true ∧
    nextHas (exec (.add 1 1 0 0) { State.reset with imem := [(0, 0x0C900000)] }) (fun t => decide (t.run = .faulted)) = true ∧
    ((4 : Word).getLsbD 0 = false ∧ (4 : Word).getLsbD 1 = false) ∧
    (State.reset.haltRun.run = .halted ∧ (6 : Word).getLsbD 1 = true ∧ (6 : Word).getLsbD 2 = true) ∧
    (1 : Word).getLsbD 0 = true ∧ (2 : Word).getLsbD 1 = true := by decide

theorem witness_EngineScheduleIsCorrect :
    2 < 2 ^ 256 ∧ 2 ^ 256 - 1 < 2 ^ 256 ∧ recipOk 2 (2 ^ 256 - 1) = true ∧ recipOk 0 1 = true := by decide +kernel

end Sys2Proof.Tests
end

section
/-! SUPPORT. What one host access does (R36 to R50, R68 to R71): the step of a host read or write as an equation, and
what each register read and write gives. -/

namespace Sys2Proof

/-- The ranges of R9, as the facts that proofs use. -/
theorem Config.wf_iff (c : Config) : c.wf = true ↔ 4 ≤ c.imemLog2 ∧ c.imemLog2 ≤ 10 ∧ c.dmemSlotsLog2 ≤ 7 := by
  simp [Config.wf, and_assoc]

end Sys2Proof

namespace Sys2Proof.Machine

/-! ### The size of IMEM (R9) -/

theorem State.imemWords_pos (s : State) : 0 < s.imemWords := Nat.two_pow_pos _

/-- IMEM_LOG2 is at most 10 (R9). -/
theorem State.imemWords_le_of_wf {s : State} (h : s.cfg.wf = true) : s.imemWords ≤ 1024 := by
  obtain ⟨-, hmax, -⟩ := s.cfg.wf_iff.mp h
  exact Nat.pow_le_pow_right (n := 2) (by omega) hmax

theorem State.imemWords_congr {s t : State} (h : t.cfg = s.cfg) : t.imemWords = s.imemWords := by
  simp [State.imemWords, h]

/-! ### One access is one step -/

/-- An aligned 32-bit access inside the 16 KiB at BASE acts (R39, R71). -/
theorem State.hostAccess_base_add (s : State) {off : Nat} (hoff : off < 0x4000) (hal : off % 4 = 0) (act : State) :
    s.hostAccess (s.base + off) 4 act = .next act := by
  have hmod : (s.base + off) % 4 = 0 := by
    unfold State.base
    omega
  have howns : s.ownsAddress (s.base + off) = true := by
    simp only [State.ownsAddress, Bool.and_eq_true, decide_eq_true_eq]
    omega
  simp [State.hostAccess, supportedAccess, hmod, howns]

/-- A host read leaves its data and counts a draw (R70). -/
theorem hostReads_eq (s : State) {off : Nat} (hoff : off < 0x4000) (hal : off % 4 = 0) :
    hostReads s off = .next { s with hostData := s.hostRead off, draws := s.draws + 1 } := by
  have hstep : hostReads s off = s.hostAccess (s.base + off) 4
      { s with hostData := s.hostRead (s.base + off - s.base), draws := s.draws + 1 } := rfl
  rw [hstep, s.hostAccess_base_add hoff hal, Nat.add_sub_cancel_left]

theorem hostWrites_eq (s : State) {off : Nat} (w : Word) (hoff : off < 0x4000) (hal : off % 4 = 0) :
    hostWrites s off w = .next (s.hostWrite off w) := by
  have hstep : hostWrites s off w = s.hostAccess (s.base + off) 4 (s.hostWrite (s.base + off - s.base) w) := rfl
  rw [hstep, s.hostAccess_base_add hoff hal, Nat.add_sub_cancel_left]

theorem readGives_iff (s : State) {off : Nat} (p : Word → Prop) (hoff : off < 0x4000) (hal : off % 4 = 0) :
    ReadGives s off p ↔ p (s.hostRead off) := by
  simp [ReadGives, hostReads_eq s hoff hal]

/-! ### The areas of the host map (R71) -/

theorem State.hostRead_control (s : State) {off : Nat} (h : off < 0x1000) : s.hostRead off = s.readControl off := by
  simp [State.hostRead, h]

theorem State.hostRead_dmemWindow (s : State) {off : Nat} (h : 0x1000 ≤ off) (h' : off < 0x2000) :
    s.hostRead off = s.readDmemWindow (off - 0x1000) := by
  simp [State.hostRead, h', not_lt.mpr h]

theorem State.hostRead_imemWindow (s : State) {off : Nat} (h : 0x2000 ≤ off) (h' : off < 0x3000) :
    s.hostRead off = s.readImemWindow ((off - 0x2000) / 4) := by
  simp [State.hostRead, h', not_lt.mpr h, show ¬off < 0x1000 by omega]

theorem State.hostRead_aboveWindows (s : State) {off : Nat} (h : 0x3000 ≤ off) : s.hostRead off = 0 := by
  simp [State.hostRead, not_lt.mpr h, show ¬off < 0x1000 by omega, show ¬off < 0x2000 by omega]

theorem State.hostWrite_control (s : State) {off : Nat} (w : Word) (h : off < 0x1000) :
    s.hostWrite off w = s.writeControl off w := by
  simp [State.hostWrite, h]

theorem State.hostWrite_dmemWindow (s : State) {off : Nat} (w : Word) (h : 0x1000 ≤ off) (h' : off < 0x2000) :
    s.hostWrite off w = s.writeDmemWindow (off - 0x1000) w := by
  simp [State.hostWrite, h', not_lt.mpr h]

theorem State.hostWrite_imemWindow (s : State) {off : Nat} (w : Word) (h : 0x2000 ≤ off) (h' : off < 0x3000) :
    s.hostWrite off w = s.writeImemWindow ((off - 0x2000) / 4) w := by
  simp [State.hostWrite, h', not_lt.mpr h, show ¬off < 0x1000 by omega]

theorem State.hostWrite_aboveWindows (s : State) {off : Nat} (w : Word) (h : 0x3000 ≤ off) : s.hostWrite off w = s := by
  simp [State.hostWrite, not_lt.mpr h, show ¬off < 0x1000 by omega, show ¬off < 0x2000 by omega]

/-! ### Where nothing answers (R38, R49, R71) -/

/-- The reserved offsets of the control area read 0. -/
theorem State.readControl_reserved (s : State) {off : Nat} (h : off = 0x00C ∨ 0x02C ≤ off) :
    s.readControl off = 0 := by
  unfold State.readControl
  iterate 10 rw [if_neg (by omega)]

/-- Only CTRL, STATUS and START_PC take a write in the control area. -/
theorem State.writeControl_inert (s : State) {off : Nat} (w : Word)
    (hctrl : off ≠ 0x010) (hstatus : off ≠ 0x014) (hstart : off ≠ 0x018) : s.writeControl off w = s := by
  simp [State.writeControl, hctrl, hstatus, hstart]

theorem State.readDmemWindow_beyond (s : State) {b : Nat} (h : s.dmemBytes ≤ b) : s.readDmemWindow b = 0 := by
  simp [State.readDmemWindow, not_lt.mpr h]

theorem State.writeDmemWindow_beyond (s : State) {b : Nat} (w : Word) (h : s.dmemBytes ≤ b) :
    s.writeDmemWindow b w = s := by
  simp [State.writeDmemWindow, not_lt.mpr h]

theorem State.readImemWindow_beyond (s : State) {i : Nat} (h : s.imemWords ≤ i) : s.readImemWindow i = 0 := by
  simp [State.readImemWindow, not_lt.mpr h]

theorem State.writeImemWindow_beyond (s : State) {i : Nat} (w : Word) (h : s.imemWords ≤ i) :
    s.writeImemWindow i w = s := by
  simp [State.writeImemWindow, not_lt.mpr h]

/-- The offsets that R49 reserves and the parts of the two windows beyond the memories (R71). -/
def State.Reserved (s : State) (off : Nat) : Prop :=
  off = 0x00C ∨ (0x02C ≤ off ∧ off < 0x1000) ∨ (0x1000 + s.dmemBytes ≤ off ∧ off < 0x2000) ∨
    (0x2000 + 4 * s.imemWords ≤ off ∧ off < 0x3000) ∨ (0x3000 ≤ off ∧ off < 0x4000)

theorem State.Reserved.lt {s : State} {off : Nat} (h : s.Reserved off) : off < 0x4000 := by
  unfold State.Reserved at h
  omega

theorem State.hostRead_reserved {s : State} {off : Nat} (h : s.Reserved off) : s.hostRead off = 0 := by
  obtain rfl | ⟨hlo, hhi⟩ | ⟨hlo, hhi⟩ | ⟨hlo, hhi⟩ | ⟨hlo, -⟩ := h
  · rw [s.hostRead_control (by omega), s.readControl_reserved (.inl rfl)]
  · rw [s.hostRead_control hhi, s.readControl_reserved (.inr hlo)]
  · rw [s.hostRead_dmemWindow (by omega) hhi, s.readDmemWindow_beyond (by omega)]
  · rw [s.hostRead_imemWindow (by omega) hhi, s.readImemWindow_beyond (by omega)]
  · exact s.hostRead_aboveWindows hlo

theorem State.hostWrite_reserved {s : State} {off : Nat} (w : Word) (h : s.Reserved off) : s.hostWrite off w = s := by
  obtain rfl | ⟨hlo, hhi⟩ | ⟨hlo, hhi⟩ | ⟨hlo, hhi⟩ | ⟨hlo, -⟩ := h
  · rw [s.hostWrite_control w (by omega), s.writeControl_inert w (by omega) (by omega) (by omega)]
  · rw [s.hostWrite_control w hhi, s.writeControl_inert w (by omega) (by omega) (by omega)]
  · rw [s.hostWrite_dmemWindow w (by omega) hhi, s.writeDmemWindow_beyond w (by omega)]
  · rw [s.hostWrite_imemWindow w (by omega) hhi, s.writeImemWindow_beyond w (by omega)]
  · exact s.hostWrite_aboveWindows w hlo

/-! ### The values of the control registers, by offset (R37) -/

@[simp] theorem State.hostRead_id (s : State) : s.hostRead 0x000 = 0x55323536 := rfl
@[simp] theorem State.hostRead_version (s : State) : s.hostRead 0x004 = 0x00000007 := rfl
@[simp] theorem State.hostRead_config (s : State) : s.hostRead 0x008 = s.regConfig := rfl
@[simp] theorem State.hostRead_status (s : State) : s.hostRead 0x014 = s.regStatus := rfl
@[simp] theorem State.hostRead_startPc (s : State) : s.hostRead 0x018 = BitVec.ofNat 32 s.startPc := rfl

/-- CONFIG as a number, whatever the parameters: its three fields do not overlap (R41). -/
theorem State.regConfig_toNat (s : State) :
    s.regConfig.toNat = s.cfg.imemLog2 % 16 + 16 * (s.cfg.dmemSlotsLog2 % 16) + 256 * s.cfg.recipCheck.toNat := by
  have hcheck := s.cfg.recipCheck.toNat_le
  rw [State.regConfig, BitVec.toNat_ofNat, Nat.mod_eq_of_lt (by omega)]

/-- STATUS, bit by bit from bit 0 (R43). -/
def State.statusBits (s : State) : List Bool :=
  [decide (s.run = .running), decide (s.run = .halted), decide (s.run = .faulted), false, false, false, false, false,
    true, s.readE 1, s.readE 2, s.readE 3]

/-- The weighted sum that STATUS is written as has these bits, whatever they are. -/
theorem ofNat_statusSum : ∀ busy done fault e0 e1 e2 e3 : Bool,
    BitVec.ofNat 32 (busy.toNat + 2 * done.toNat + 4 * fault.toNat + 256 * e0.toNat + 512 * e1.toNat +
        1024 * e2.toNat + 2048 * e3.toNat) =
      (BitVec.ofBoolListLE [busy, done, fault, false, false, false, false, false, e0, e1, e2, e3]).setWidth 32 := by
  decide

theorem State.regStatus_getLsbD (s : State) (k : Nat) : s.regStatus.getLsbD k = s.statusBits.getD k false := by
  have hbits : s.regStatus = (BitVec.ofBoolListLE s.statusBits).setWidth 32 := ofNat_statusSum ..
  rw [hbits, BitVec.getLsbD_setWidth, BitVec.getLsbD_ofBoolListLE]
  by_cases hk : k < 32
  · simp [hk]
  · have hlen : s.statusBits.length ≤ k := (by decide : 12 ≤ 32).trans (not_lt.mp hk)
    rw [decide_eq_false hk, Bool.false_and, List.getD_eq_default _ _ hlen]

/-- The bits of STATUS that R43 names no flag for are 0. -/
theorem State.statusBits_getD_unused (s : State) {k : Nat} (hk : (3 ≤ k ∧ k ≤ 7) ∨ 12 ≤ k) :
    s.statusBits.getD k false = false := by
  obtain ⟨hlo, hhi⟩ | hhi := hk
  · interval_cases k <;> rfl
  · exact List.getD_eq_default _ _ hhi

/-! ### Writes to the control registers, by offset (R37) -/

@[simp] theorem State.hostWrite_ctrl (s : State) (w : Word) : s.hostWrite 0x010 w = s.writeCtrl w := rfl
@[simp] theorem State.hostWrite_status (s : State) (w : Word) : s.hostWrite 0x014 w = s.writeStatus w := rfl
@[simp] theorem State.hostWrite_startPc (s : State) (w : Word) : s.hostWrite 0x018 w = s.writeStartPc w := rfl

/-- The write clears DONE while HALTED or FAULT while FAULTED (R43). -/
def State.ClearsStatus (s : State) (w : Word) : Prop :=
  (s.run = .halted ∧ w.getLsbD 1 = true) ∨ (s.run = .faulted ∧ w.getLsbD 2 = true)

theorem State.writeStatus_clears {s : State} {w : Word} (h : s.ClearsStatus w) : s.writeStatus w = s.acknowledge := by
  obtain ⟨hrun, hbit⟩ | ⟨hrun, hbit⟩ := h <;> simp [State.writeStatus, hrun, hbit]

theorem State.writeStatus_inert {s : State} {w : Word} (h : ¬s.ClearsStatus w) : s.writeStatus w = s := by
  simp only [State.ClearsStatus, not_or, not_and, Bool.not_eq_true] at h
  obtain ⟨hdone, hfault⟩ := h
  cases hrun : s.run with
  | idle | running => simp [State.writeStatus, hrun]
  | halted =>
    rw [State.writeStatus, hdone hrun]
    simp [hrun]
  | faulted =>
    rw [State.writeStatus, hfault hrun]
    simp [hrun]

theorem State.writeStartPc_running {s : State} (w : Word) (h : s.run = .running) : s.writeStartPc w = s := by
  simp [State.writeStartPc, h]

theorem State.writeStartPc_stopped {s : State} (w : Word) (h : s.run ≠ .running) :
    s.writeStartPc w = { s with startPc := w.toNat % s.imemWords } := by
  simp [State.writeStartPc, h]

/-! ### What no host write changes, and where START_PC stays -/

@[simp] theorem State.writeCtrl_cfg (s : State) (w : Word) : (s.writeCtrl w).cfg = s.cfg := by
  unfold State.writeCtrl
  split_ifs <;> rfl
@[simp] theorem State.writeStatus_cfg (s : State) (w : Word) : (s.writeStatus w).cfg = s.cfg := by
  unfold State.writeStatus
  split_ifs <;> rfl
@[simp] theorem State.writeStartPc_cfg (s : State) (w : Word) : (s.writeStartPc w).cfg = s.cfg := by
  unfold State.writeStartPc
  split_ifs <;> rfl
@[simp] theorem State.writeDmemWindow_cfg (s : State) (b : Nat) (w : Word) : (s.writeDmemWindow b w).cfg = s.cfg := by
  unfold State.writeDmemWindow
  split_ifs <;> rfl
@[simp] theorem State.writeImemWindow_cfg (s : State) (i : Nat) (w : Word) : (s.writeImemWindow i w).cfg = s.cfg := by
  unfold State.writeImemWindow
  split_ifs <;> rfl

/-- No host write changes the parameters (R10). -/
@[simp] theorem State.hostWrite_cfg (s : State) (off : Nat) (w : Word) : (s.hostWrite off w).cfg = s.cfg := by
  unfold State.hostWrite State.writeControl
  split_ifs <;> simp

@[simp] theorem State.writeCtrl_startPc (s : State) (w : Word) :
    (s.writeCtrl w).startPc = if w.getLsbD 1 then 0 else s.startPc := by
  unfold State.writeCtrl
  split_ifs <;> rfl
@[simp] theorem State.writeStatus_startPc (s : State) (w : Word) : (s.writeStatus w).startPc = s.startPc := by
  unfold State.writeStatus
  split_ifs <;> rfl
@[simp] theorem State.writeStartPc_startPc (s : State) (w : Word) :
    (s.writeStartPc w).startPc = if s.run = .running then s.startPc else w.toNat % s.imemWords := by
  unfold State.writeStartPc
  split_ifs <;> rfl
@[simp] theorem State.writeDmemWindow_startPc (s : State) (b : Nat) (w : Word) :
    (s.writeDmemWindow b w).startPc = s.startPc := by
  unfold State.writeDmemWindow
  split_ifs <;> rfl
@[simp] theorem State.writeImemWindow_startPc (s : State) (i : Nat) (w : Word) :
    (s.writeImemWindow i w).startPc = s.startPc := by
  unfold State.writeImemWindow
  split_ifs <;> rfl

/-- A write to CTRL, STATUS or START_PC leaves START_PC below IMEM_WORDS: it stays, is reset, or is reduced (R44). -/
theorem State.writeControl_startPc_lt {s : State} (off : Nat) (w : Word) (h : s.startPc < s.imemWords) :
    (s.writeControl off w).startPc < s.imemWords := by
  have hreduced : w.toNat % s.imemWords < s.imemWords := Nat.mod_lt _ s.imemWords_pos
  unfold State.writeControl
  split_ifs
  · rw [State.writeCtrl_startPc]
    split_ifs
    exacts [s.imemWords_pos, h]
  · rwa [State.writeStatus_startPc]
  · rw [State.writeStartPc_startPc]
    split_ifs
    exacts [h, hreduced]
  · exact h

theorem State.hostWrite_startPc_lt {s : State} (off : Nat) (w : Word) (h : s.startPc < s.imemWords) :
    (s.hostWrite off w).startPc < s.imemWords := by
  unfold State.hostWrite
  split_ifs
  · exact s.writeControl_startPc_lt off w h
  · rwa [State.writeDmemWindow_startPc]
  · rwa [State.writeImemWindow_startPc]
  · exact h

end Sys2Proof.Machine
end

section
/-! SUPPORT. No instruction and no turn of the sequencer touches the host's side of the state (R31, R44, R202). -/

namespace Sys2Proof.Machine

variable {s t : State}

theorem KeepsHostSide.refl (s : State) : KeepsHostSide s s := ⟨rfl, rfl, rfl, rfl, rfl, rfl⟩

/-! ### Each operation of an instruction keeps what is kept so far -/

theorem KeepsHostSide.writeU (h : KeepsHostSide s t) {r : UReg} {x : Value} : KeepsHostSide s (t.writeU r x) :=
  ⟨h.cfg, h.irqEn, h.startPc, h.powerOns, h.host, h.hostData⟩

theorem KeepsHostSide.writeE (h : KeepsHostSide s t) {e : EReg} {b : Bool} : KeepsHostSide s (t.writeE e b) := by
  constructor <;> simp [h.cfg, h.irqEn, h.startPc, h.powerOns, h.host, h.hostData]

theorem KeepsHostSide.memWrite (h : KeepsHostSide s t) {a n x : Nat} : KeepsHostSide s (t.memWrite a n x) :=
  ⟨h.cfg, h.irqEn, h.startPc, h.powerOns, h.host, h.hostData⟩

theorem KeepsHostSide.advance (h : KeepsHostSide s t) : KeepsHostSide s t.advance :=
  ⟨h.cfg, h.irqEn, h.startPc, h.powerOns, h.host, h.hostData⟩

theorem KeepsHostSide.countDraw (h : KeepsHostSide s t) : KeepsHostSide s t.countDraw :=
  ⟨h.cfg, h.irqEn, h.startPc, h.powerOns, h.host, h.hostData⟩

theorem KeepsHostSide.haltRun (h : KeepsHostSide s t) : KeepsHostSide s t.haltRun :=
  ⟨h.cfg, h.irqEn, h.startPc, h.powerOns, h.host, h.hostData⟩

/-- RECIP's effect on either outcome of its precondition. -/
theorem recipEffect_keepsHostSide (ua ub : UReg) (s : State) : KeepsHostSide s (recipEffect ua ub s) := by
  unfold recipEffect
  dsimp only
  split
  · exact (KeepsHostSide.refl s).writeU.advance
  · exact (KeepsHostSide.refl s).writeU.countDraw.advance

/-- Retirement keeps the host's side if the instruction's effect does: fault entry does by itself (R215). -/
theorem State.retire_keepsHostSide {checks : List (Bool × FaultCause)} {effect : State}
    (heffect : KeepsHostSide s effect) (h : s.retire checks effect = .next t) : KeepsHostSide s t := by
  obtain ⟨c, -, hfault⟩ | ⟨-, hcommit⟩ := s.retire_cases checks effect
  · cases hfault.symm.trans h
    exact (s.takeFault_enters c s.fetch).hostSide
  · cases hcommit.symm.trans h
    exact heffect

/-- No instruction changes the parameters, IRQ_EN, START_PC or the host's own side. -/
theorem exec_keepsHostSide {i : Instr} (h : exec i s = .next t) : KeepsHostSide s t := by
  have hs := KeepsHostSide.refl s
  cases i with
  | replace | shr1 | ldbe => exact State.retire_keepsHostSide hs.writeU.advance h
  | swap => exact State.retire_keepsHostSide hs.writeU.writeU.advance h
  | add | sub | shl1 => exact State.retire_keepsHostSide hs.writeU.writeE.advance h
  | recip ua ub => exact State.retire_keepsHostSide (recipEffect_keepsHostSide ua ub s) h
  | cmpEq | cmpNe | cmpLt | cmpLe | cmpGt | cmpGe | par => exact State.retire_keepsHostSide hs.writeE.advance h
  | stbe => exact State.retire_keepsHostSide hs.memWrite.advance h
  | pand | por | pxor =>
    cases h
    exact hs.writeE.advance
  | ldcZero | ldcOne =>
    cases h
    exact hs.writeU.advance
  | halt =>
    cases h
    exact hs.haltRun

theorem sequence_keepsHostSide (h : sequence s = .next t) : KeepsHostSide s t := by
  obtain ⟨-, rfl⟩ | ⟨-, -, rfl⟩ | ⟨-, -, -, rfl⟩ | ⟨-, -, i, -, hexec⟩ := sequence_cases h
  · exact .refl _
  · exact (s.takeFault_enters .pcRange 0).hostSide
  · exact (s.takeFault_enters .illegal s.fetch).hostSide
  · exact exec_keepsHostSide hexec

/-- The state of the sequencer's turn differs from the step's own in the host's script alone. -/
theorem SequencerTurn.eq_withHost (h : SequencerTurn s t) : ∃ rest, t = { s with host := rest } := by
  obtain ⟨-, rfl⟩ | ⟨rest, -, rfl⟩ := h
  exacts [⟨_, rfl⟩, ⟨rest, rfl⟩]

/-- START_PC stays below IMEM_WORDS in every step (R44). -/
theorem step_keeps_startPc_lt (hlt : s.startPc < s.imemWords) (h : step s = .next t) : t.startPc < t.imemWords := by
  obtain ⟨s', hturn, hseq⟩ | ⟨rest, -, rfl⟩ | ⟨addr, rest, -, -, -, rfl⟩ | ⟨addr, w, rest, -, -, -, rfl⟩ :=
    step_cases h
  · obtain ⟨rest, rfl⟩ := hturn.eq_withHost
    have hkeeps := sequence_keepsHostSide hseq
    rw [State.imemWords_congr hkeeps.cfg, hkeeps.startPc]
    exact hlt
  · exact State.imemWords_pos _
  · exact hlt
  · rw [State.imemWords_congr (State.hostWrite_cfg _ _ _)]
    exact State.hostWrite_startPc_lt _ w hlt

end Sys2Proof.Machine
end

section
/-! SUPPORT. The statements about the control registers of 10_state.md, settled. -/

namespace Sys2Proof.Machine

/-- Settles O45: an equation for each write and read, and the bound as an invariant of `step`. -/
theorem startPcHoldsAnIndex : Obligations.StartPcHoldsAnIndex := by
  refine ⟨fun s w hrun => ?stores, fun s w hrun => ?ignores, fun s hwf hlt => ?readsBack, rfl, by decide,
    fun s t => step_keeps_startPc_lt⟩
  case stores =>
    rw [hostWrites_eq s w (by omega) (by omega), s.hostWrite_startPc, State.writeStartPc_stopped w hrun, State.imemWords]
  case ignores =>
    rw [hostWrites_eq s w (by omega) (by omega), s.hostWrite_startPc, State.writeStartPc_running w hrun]
  case readsBack =>
    have hle := State.imemWords_le_of_wf hwf
    rw [readGives_iff s _ (by omega) (by omega), s.hostRead_startPc, BitVec.toNat_ofNat]
    omega

/-- Settles O49: the areas of the host map one by one, beyond what answers there. -/
theorem reservedOffsetsAreInert : Obligations.ReservedOffsetsAreInert := by
  refine fun s off w hal => ⟨fun (hres : s.Reserved off) => ⟨?reads, ?writes⟩, fun hro => ?readOnly⟩
  case reads => exact (readGives_iff s _ hres.lt hal).mpr (State.hostRead_reserved hres)
  case writes => rw [hostWrites_eq s w hres.lt hal, State.hostWrite_reserved w hres]
  case readOnly =>
    rw [hostWrites_eq s w (by omega) hal, s.hostWrite_control w (by omega),
      s.writeControl_inert w (by omega) (by omega) (by omega)]

/-- Settles O44: the bits of STATUS by position, and a write by whether it clears the flag of the run state. -/
theorem statusReadsAndClears : Obligations.StatusReadsAndClears := by
  refine ⟨fun s => ?bits, fun s w (hclears : s.ClearsStatus w) => ?clears,
    fun s w (hinert : ¬s.ClearsStatus w) => ?inert, ?reset⟩
  case bits =>
    rw [readGives_iff s _ (by omega) (by omega), s.hostRead_status]
    simp only [State.regStatus_getLsbD]
    exact ⟨decide_eq_true_iff, decide_eq_true_iff, decide_eq_true_iff, rfl, rfl, rfl, rfl,
      fun k => s.statusBits_getD_unused⟩
  case clears =>
    rw [hostWrites_eq s w (by omega) (by omega), s.hostWrite_status, State.writeStatus_clears hclears, State.acknowledge]
  case inert =>
    rw [hostWrites_eq s w (by omega) (by omega), s.hostWrite_status, State.writeStatus_inert hinert]
  case reset =>
    rw [readGives_iff _ _ (by omega) (by omega)]
    rfl

/-- Settles O46: CONFIG's fields as digits of its number. -/
theorem identityRegistersRead : Obligations.IdentityRegistersRead := by
  intro s hwf
  obtain ⟨-, himem, hdmem⟩ := s.cfg.wf_iff.mp hwf
  have hcheck := s.cfg.recipCheck.toNat_le
  have hconfig := s.regConfig_toNat
  refine ⟨(readGives_iff s _ (by omega) (by omega)).mpr s.hostRead_id,
    (readGives_iff s _ (by omega) (by omega)).mpr s.hostRead_version,
    (readGives_iff s _ (by omega) (by omega)).mpr ?_⟩
  rw [s.hostRead_config]
  refine ⟨?imemLog2, ?dmemSlotsLog2, ?recipCheck, ?reserved⟩
  case imemLog2 =>
    rw [BitVec.extractLsb'_toNat, Nat.shiftRight_eq_div_pow, hconfig]
    omega
  case dmemSlotsLog2 =>
    rw [BitVec.extractLsb'_toNat, Nat.shiftRight_eq_div_pow, hconfig]
    omega
  case recipCheck =>
    rw [BitVec.getLsbD, Nat.testBit_eq_decide_div_mod_eq, hconfig]
    cases hc : s.cfg.recipCheck <;> simp <;> omega
  case reserved =>
    apply BitVec.eq_of_toNat_eq
    rw [BitVec.extractLsb'_toNat, Nat.shiftRight_eq_div_pow, hconfig]
    change _ = 0
    omega

end Sys2Proof.Machine
end

section
/-! SUPPORT. The bytes of a big-endian read or write as fields of its word (R13, R62, R64), and what the two host
windows do while the unit is stopped (R64). -/

namespace Sys2Proof.Machine

/-! ### Big-endian bytes as fields of a word (R13) -/

/-- A big-endian read splits at any byte: the first part holds the high bytes. -/
theorem State.memRead_add (s : State) (m n : Nat) : ∀ a : Nat,
    s.memRead a (m + n) = s.memRead a m * 2 ^ (8 * n) + s.memRead (a + m) n := by
  induction m with
  | zero =>
    intro a
    simp [State.memRead]
  | succ m ih =>
    intro a
    have hlen : m + 1 + n = m + n + 1 := by omega
    have hnext : a + (m + 1) = a + 1 + m := by omega
    rw [hlen, hnext]
    simp only [State.memRead, ih, Nat.mul_add, Nat.pow_add]
    ring

/-- The field that holds bytes `k` to `k + m - 1` of an `n`-byte read is the `m`-byte read from byte `k` on. -/
theorem State.extractLsb'_memRead (s : State) (a : Nat) {n k m start : Nat} (h : start + 8 * (k + m) = 8 * n) :
    (BitVec.ofNat (8 * n) (s.memRead a n)).extractLsb' start (8 * m) = BitVec.ofNat (8 * m) (s.memRead (a + k) m) := by
  obtain ⟨r, rfl⟩ : ∃ r, n = k + m + r := ⟨n - (k + m), by omega⟩
  obtain rfl : start = 8 * r := by omega
  have hhigh : s.memRead a (k + m + r) / 2 ^ (8 * r) = s.memRead a k * 2 ^ (8 * m) + s.memRead (a + k) m := by
    rw [s.memRead_add (k + m) r, Nat.mul_comm, Nat.mul_add_div (Nat.two_pow_pos _), Nat.div_eq_of_lt (s.memRead_lt r _),
      Nat.add_zero, s.memRead_add k m]
  apply BitVec.eq_of_toNat_eq
  rw [BitVec.extractLsb'_toNat, Nat.shiftRight_eq_div_pow, BitVec.toNat_ofNat, BitVec.toNat_ofNat,
    Nat.mod_eq_of_lt (s.memRead_lt _ _), hhigh, Nat.mul_add_mod_self_right]

/-- A byte of an `n`-byte read, by its field. -/
theorem State.extractLsb'_memRead_byte (s : State) (a : Nat) {n k start : Nat} (h : start + 8 * (k + 1) = 8 * n) :
    (BitVec.ofNat (8 * n) (s.memRead a n)).extractLsb' start 8 = s.dmemByte (a + k) := by
  have hone : s.memRead (a + k) 1 = (s.dmemByte (a + k)).toNat := by simp [State.memRead]
  calc (BitVec.ofNat (8 * n) (s.memRead a n)).extractLsb' start 8
      = BitVec.ofNat 8 (s.memRead (a + k) 1) := s.extractLsb'_memRead a (m := 1) h
    _ = s.dmemByte (a + k) := by rw [hone, BitVec.ofNat_toNat, BitVec.setWidth_eq]

/-- A byte of the big-endian form of a word, by its field. -/
theorem byteOf_toNat {w : Nat} (x : BitVec w) {n k start : Nat} (h : start + 8 * (k + 1) = 8 * n) :
    byteOf n k x.toNat = x.extractLsb' start 8 := by
  obtain rfl : start = 8 * (n - 1 - k) := by omega
  rw [byteOf, BitVec.extractLsb', Nat.shiftRight_eq_div_pow]

/-- Byte `k` of a big-endian write of a word, read back. -/
theorem State.dmemByte_memWrite_toNat {w : Nat} (s : State) (a : Nat) (x : BitVec w) {n k start : Nat}
    (h : start + 8 * (k + 1) = 8 * n) : (s.memWrite a n x.toNat).dmemByte (a + k) = x.extractLsb' start 8 := by
  rw [State.dmemByte_memWrite, if_pos (by omega), Nat.add_sub_cancel_left, byteOf_toNat x h]

/-! ### The two windows while the unit is stopped (R64) -/

/-- DMEM_SLOTS_LOG2 is at most 7 (R9), so DMEM fits its window. -/
theorem State.dmemBytes_le_of_wf {s : State} (h : s.cfg.wf = true) : s.dmemBytes ≤ 4096 := by
  obtain ⟨-, -, hmax⟩ := s.cfg.wf_iff.mp h
  have hslots : s.dmemSlots ≤ 2 ^ 7 := Nat.pow_le_pow_right (n := 2) (by omega) hmax
  unfold State.dmemBytes
  omega

theorem State.hostRead_dmem {s : State} {b : Nat} (hwf : s.cfg.wf = true) (hstop : s.run ≠ .running)
    (hb : b < s.dmemBytes) : s.hostRead (0x1000 + b) = BitVec.ofNat 32 (s.memRead b 4) := by
  have hsize := State.dmemBytes_le_of_wf hwf
  rw [s.hostRead_dmemWindow (by omega) (by omega), Nat.add_sub_cancel_left, State.readDmemWindow, if_neg hstop,
    if_pos hb]

theorem State.hostWrite_dmem {s : State} {b : Nat} (w : Word) (hwf : s.cfg.wf = true) (hstop : s.run ≠ .running)
    (hb : b < s.dmemBytes) : s.hostWrite (0x1000 + b) w = s.memWrite b 4 w.toNat := by
  have hsize := State.dmemBytes_le_of_wf hwf
  rw [s.hostWrite_dmemWindow w (by omega) (by omega), Nat.add_sub_cancel_left, State.writeDmemWindow, if_neg hstop,
    if_pos hb]

theorem State.hostRead_imem {s : State} {i : Nat} (hwf : s.cfg.wf = true) (hstop : s.run ≠ .running)
    (hi : i < s.imemWords) : s.hostRead (0x2000 + 4 * i) = s.imemWord i := by
  have hsize := State.imemWords_le_of_wf hwf
  rw [s.hostRead_imemWindow (by omega) (by omega), Nat.add_sub_cancel_left, Nat.mul_div_cancel_left i (by omega),
    State.readImemWindow, if_neg hstop, if_pos hi]

theorem State.hostWrite_imem {s : State} {i : Nat} (w : Word) (hwf : s.cfg.wf = true) (hstop : s.run ≠ .running)
    (hi : i < s.imemWords) : s.hostWrite (0x2000 + 4 * i) w = s.imemWrite i w := by
  have hsize := State.imemWords_le_of_wf hwf
  rw [s.hostWrite_imemWindow w (by omega) (by omega), Nat.add_sub_cancel_left, Nat.mul_div_cancel_left i (by omega),
    State.writeImemWindow, if_neg hstop, if_pos hi]

/-- A write of IMEM keeps the host's side, as one of DMEM does. -/
theorem KeepsHostSide.imemWrite {s t : State} (h : KeepsHostSide s t) {i : Nat} {w : Word} :
    KeepsHostSide s (t.imemWrite i w) :=
  ⟨h.cfg, h.irqEn, h.startPc, h.powerOns, h.host, h.hostData⟩

/-! ### A step that is a host action -/

/-- A host action other than `idle` is the whole step (R17). -/
theorem step_of_host {s : State} {act : HostAct} {rest : List HostAct} (h : s.host = act :: rest)
    (hact : act ≠ .idle) : step s = ({ s with host := rest } : State).hostStep act := by
  rw [step, turn, h]
  cases act with
  | idle => exact absurd rfl hact
  | read | write | hardReset => rfl

/-- An access of another width or alignment than R39's is refused (R68). -/
theorem State.hostAccess_unsupported (s : State) {addr size : Nat} (act : State) (h : size ≠ 4 ∨ addr % 4 ≠ 0) :
    s.hostAccess addr size act = .refused .hostAccessUnsupported := by
  have hno : supportedAccess addr size = false := by
    simp only [supportedAccess, Bool.and_eq_false_iff, decide_eq_false_iff_not]
    exact h
  rw [State.hostAccess, hno, Bool.not_false, if_pos rfl]

end Sys2Proof.Machine
end

section
/-! SUPPORT. The statements about the host's access to the memories of 20_memory.md, settled. -/

namespace Sys2Proof.Machine

/-- Settles O53: the check of width and alignment comes before anything else of the access. -/
theorem unsupportedHostAccessIsRefused : Obligations.UnsupportedHostAccessIsRefused := by
  refine fun s addr size w rest hbad => ⟨fun hread => ?read, fun hwrite => ?write⟩
  case read =>
    rw [step_of_host hread (by simp), State.hostStep, State.hostAccess_unsupported _ _ hbad]
  case write =>
    rw [step_of_host hwrite (by simp), State.hostStep, State.hostAccess_unsupported _ _ hbad]

/-- Settles O50: a window access is the read or write of the memory itself, and its lanes are the fields of the
big-endian form. -/
theorem windowsReadAndWriteTheMemories : Obligations.WindowsReadAndWriteTheMemories := by
  refine ⟨fun s b hwf hstop hb hal => ⟨?dmemRead, fun w =>
      ⟨s.memWrite b 4 w.toNat, ?dmemWrite, ?dmemStored, ?dmemFrame⟩⟩,
    fun s slot j hwf hstop hslot hj => ?slotWord,
    fun s i hwf hstop hi => ⟨?imemRead, fun w =>
      ⟨s.imemWrite i w, ?imemWrite, ?imemStored, ?imemOthers, ?imemFrame⟩⟩⟩
  case dmemRead =>
    have hsize := State.dmemBytes_le_of_wf hwf
    rw [readGives_iff s _ (by omega) (by omega), State.hostRead_dmem hwf hstop hb]
    exact fun k hk => s.extractLsb'_memRead_byte b (n := 4) (by omega)
  case dmemWrite =>
    have hsize := State.dmemBytes_le_of_wf hwf
    rw [hostWrites_eq s w (by omega) (by omega), State.hostWrite_dmem w hwf hstop hb]
  case dmemStored => exact fun k hk => s.dmemByte_memWrite_toNat b w (by omega)
  case dmemFrame =>
    exact ⟨s.memWrite_keeps b 4 w.toNat, s.imemWord_memWrite b 4 w.toNat, fun _ _ => ⟨rfl, rfl⟩,
      fun _ _ => rfl, ⟨rfl, rfl, rfl, rfl⟩, rfl, (KeepsHostSide.refl s).memWrite, rfl⟩
  case slotWord =>
    have hsize := State.dmemBytes_le_of_wf hwf
    have hb : slotAddress slot + 4 * j < s.dmemBytes := by
      unfold slotAddress State.dmemBytes
      omega
    have hal : slotAddress slot % 4 = 0 := by
      unfold slotAddress
      omega
    rw [readGives_iff s _ (by omega) (by omega), Nat.add_assoc, State.hostRead_dmem hwf hstop hb]
    exact (s.extractLsb'_memRead (slotAddress slot) (n := 32) (m := 4) (by omega)).symm
  case imemRead =>
    have hsize := State.imemWords_le_of_wf hwf
    rw [readGives_iff s _ (by omega) (by omega), State.hostRead_imem hwf hstop hi]
  case imemWrite =>
    have hsize := State.imemWords_le_of_wf hwf
    rw [hostWrites_eq s w (by omega) (by omega), State.hostWrite_imem w hwf hstop hi]
  case imemStored => rw [s.imemWord_imemWrite, if_pos rfl]
  case imemOthers => exact fun j hj => by rw [s.imemWord_imemWrite, if_neg hj]
  case imemFrame =>
    exact ⟨fun c _ => s.dmemByte_imemWrite i w c, fun _ _ => ⟨rfl, rfl⟩, fun _ _ => rfl, ⟨rfl, rfl, rfl, rfl⟩, rfl,
      (KeepsHostSide.refl s).imemWrite, rfl⟩

end Sys2Proof.Machine
end

section
/-! SUPPORT. A word by its fields (R91), and a row of the opcode table by the fields it fixes (R94): a word is a row's
exactly when it has the row's OP, 0 in each field that R94 marks 0, and an FN that the row takes. -/

namespace Sys2Proof
open Machine

/-! ### The fields of a word -/

/-- The fields of format R between OP and FN as (lowest bit, width): UA, UB, PE, PD, PA, PB and RSV (R91). -/
def middleFields : List (Nat × Nat) := [(23, 3), (20, 3), (18, 2), (16, 2), (14, 2), (12, 2), (4, 8)]

/-- The fields of format R: OP, FN, and those between. -/
def formatRFields : List (Nat × Nat) := (26, 6) :: (0, 4) :: middleFields

theorem exists_formatRField_of_bit : ∀ i : Fin 32, ∃ f ∈ formatRFields, f.1 ≤ i.val ∧ i.val < f.1 + f.2 := by decide

/-- The fields of format R leave out no bit, so they decide a word. -/
theorem word_eq_iff_fields (a b : Word) :
    a = b ↔ ∀ f ∈ formatRFields, a.extractLsb' f.1 f.2 = b.extractLsb' f.1 f.2 := by
  refine ⟨fun h _ _ => h ▸ rfl, fun h => BitVec.eq_of_getLsbD_eq fun i hi => ?_⟩
  obtain ⟨⟨lo, width⟩, hmem, (hlo : lo ≤ i), (hhi : i < lo + width)⟩ := exists_formatRField_of_bit ⟨i, hi⟩
  have hbit := congrArg (·.getLsbD (i - lo)) (h _ hmem)
  have hwidth : i - lo < width := by omega
  simpa [BitVec.getLsbD_extractLsb', hwidth, hlo] using hbit

theorem fieldOP_lt (w : Word) : fieldOP w < 64 := (w.extractLsb' 26 6).isLt
theorem fieldFN_lt (w : Word) : fieldFN w < 16 := (w.extractLsb' 0 4).isLt

/-- A register field is 0 exactly when its bits are. -/
theorem registerField_eq_zero_iff {n : Nat} (x : BitVec n) : Fin.ofNat (2 ^ n) x.toNat = 0 ↔ x = 0 := by
  rw [Fin.ext_iff, ← BitVec.toNat_inj]
  simp [Nat.mod_eq_of_lt x.isLt]

theorem fieldUA_eq_zero_iff (w : Word) : fieldUA w = 0 ↔ w.extractLsb' 23 3 = 0 := registerField_eq_zero_iff _
theorem fieldUB_eq_zero_iff (w : Word) : fieldUB w = 0 ↔ w.extractLsb' 20 3 = 0 := registerField_eq_zero_iff _
theorem fieldPE_eq_zero_iff (w : Word) : fieldPE w = 0 ↔ w.extractLsb' 18 2 = 0 := registerField_eq_zero_iff _
theorem fieldPD_eq_zero_iff (w : Word) : fieldPD w = 0 ↔ w.extractLsb' 16 2 = 0 := registerField_eq_zero_iff _
theorem fieldPA_eq_zero_iff (w : Word) : fieldPA w = 0 ↔ w.extractLsb' 14 2 = 0 := registerField_eq_zero_iff _
theorem fieldPB_eq_zero_iff (w : Word) : fieldPB w = 0 ↔ w.extractLsb' 12 2 = 0 := registerField_eq_zero_iff _

/-- RSVM of format M is UB, PE and PD of format R (R91, R92). -/
theorem rsvm_eq_zero_iff (w : Word) :
    w.extractLsb' 16 7 = 0 ↔ w.extractLsb' 20 3 = 0 ∧ w.extractLsb' 18 2 = 0 ∧ w.extractLsb' 16 2 = 0 := by
  simp only [← BitVec.toNat_inj, BitVec.extractLsb'_toNat, Nat.shiftRight_eq_div_pow, BitVec.ofNat_eq_ofNat,
    BitVec.toNat_ofNat]
  omega

/-! ### The rows of the opcode table by field -/

/-- The row takes the FN value: its own, or any where its mask fixes no FN (format M, R92). -/
def Row.TakesFn (r : Row) (fn : Nat) : Prop := r.mask.extractLsb' 0 4 = 0 ∨ fn = fieldFN r.pattern

/-- Each row fixes all of OP, all or nothing of every other field, and no field between OP and FN at anything
but 0. -/
theorem opcodeTable_fixes_fields : ∀ r ∈ opcodeTable,
    r.mask.extractLsb' 26 6 = BitVec.allOnes 6 ∧
    (r.mask.extractLsb' 0 4 = 0 ∧ r.pattern.extractLsb' 0 4 = 0 ∨ r.mask.extractLsb' 0 4 = BitVec.allOnes 4) ∧
    ∀ f ∈ middleFields, r.pattern.extractLsb' f.1 f.2 = 0 ∧
      (r.mask.extractLsb' f.1 f.2 = 0 ∨ r.mask.extractLsb' f.1 f.2 = BitVec.allOnes f.2) := by
  decide

/-- The fields between OP and FN that a row's mask fixes are those that R94 marks 0 for its OP. -/
theorem zeroFieldsAreZero_iff_of_op {r : Row} (hr : r ∈ opcodeTable) {w : Word}
    (hop : fieldOP w = fieldOP r.pattern) : ZeroFieldsAreZero w ↔
      ∀ f ∈ middleFields, r.mask.extractLsb' f.1 f.2 ≠ 0 → w.extractLsb' f.1 f.2 = 0 := by
  simp only [ZeroFieldsAreZero, fieldUA_eq_zero_iff, fieldUB_eq_zero_iff, fieldPE_eq_zero_iff,
    fieldPD_eq_zero_iff, fieldPA_eq_zero_iff, fieldPB_eq_zero_iff, rsvm_eq_zero_iff]
  generalize fieldOP w = op at hop
  fin_cases hr
  all_goals
  · obtain rfl : op = _ := hop
    simp only [fieldOP, BitVec.reduceExtractLsb', BitVec.reduceToNat, Nat.reduceEqDiff, or_self, or_true, or_false,
      ↓reduceIte]
    simp only [middleFields, List.forall_mem_cons, BitVec.reduceExtractLsb', BitVec.ofNat_eq_ofNat, BitVec.reduceEq,
      ne_eq, not_true, not_false_eq_true, false_imp_iff, forall_const, true_and, List.not_mem_nil, and_true]

/-- A masked field is 0 exactly when the mask leaves it out or the field is 0, if the mask has all of it or nothing. -/
theorem masked_eq_zero_iff {n : Nat} {m : BitVec n} (hm : m = 0 ∨ m = BitVec.allOnes n) (x : BitVec n) :
    x &&& m = 0 ↔ (m ≠ 0 → x = 0) := by
  by_cases h : m = 0
  · simp [h]
  · rw [hm.resolve_left h, BitVec.and_allOnes, ← hm.resolve_left h, forall_prop_of_true h]

/-- A word fits a row exactly when it has the row's OP, 0 in each field that R94 marks 0, and an FN the row takes. -/
theorem Row.fits_iff {r : Row} (hr : r ∈ opcodeTable) (w : Word) : r.fits w = true ↔
    fieldOP w = fieldOP r.pattern ∧ ZeroFieldsAreZero w ∧ r.TakesFn (fieldFN w) := by
  obtain ⟨hopMask, hfnMask, hmiddleMask⟩ := opcodeTable_fixes_fields r hr
  have hop : w.extractLsb' 26 6 &&& r.mask.extractLsb' 26 6 = r.pattern.extractLsb' 26 6 ↔
      fieldOP w = fieldOP r.pattern := by
    rw [hopMask, BitVec.and_allOnes]
    exact BitVec.toNat_inj.symm
  have hfn : w.extractLsb' 0 4 &&& r.mask.extractLsb' 0 4 = r.pattern.extractLsb' 0 4 ↔ r.TakesFn (fieldFN w) := by
    obtain ⟨hnone, hpattern⟩ | hall := hfnMask
    · simp [Row.TakesFn, hnone, hpattern]
    · rw [Row.TakesFn, hall, BitVec.and_allOnes, or_iff_right (by decide)]
      exact BitVec.toNat_inj.symm
  have hmiddle : (∀ f ∈ middleFields,
        w.extractLsb' f.1 f.2 &&& r.mask.extractLsb' f.1 f.2 = r.pattern.extractLsb' f.1 f.2) ↔
      ∀ f ∈ middleFields, r.mask.extractLsb' f.1 f.2 ≠ 0 → w.extractLsb' f.1 f.2 = 0 :=
    forall₂_congr fun f hf => by
      obtain ⟨hpattern, hmask⟩ := hmiddleMask f hf
      rw [hpattern, masked_eq_zero_iff hmask]
  rw [Row.fits, beq_iff_eq, word_eq_iff_fields, formatRFields, List.forall_mem_cons, List.forall_mem_cons]
  simp only [BitVec.extractLsb'_and, hop, hfn, hmiddle]
  rw [and_comm (a := r.TakesFn _)]
  exact and_congr_right fun h => by rw [zeroFieldsAreZero_iff_of_op hr h]

/-- The OP values of the rows are those that R99 does not reserve. -/
theorem reservedOp_eq_false_of_mem : ∀ r ∈ opcodeTable, reservedOp (fieldOP r.pattern) = false := by decide

/-- For an OP that is not reserved, the FN values that some row takes are those that R101 does not reserve. -/
theorem exists_row_takesFn_iff {op : Nat} (hop : op < 64) (hdefined : reservedOp op = false) (fn : Nat) :
    (∃ r ∈ opcodeTable, op = fieldOP r.pattern ∧ r.TakesFn fn) ↔ reservedFn op fn = false := by
  have hvalues : (1 ≤ op ∧ op ≤ 0x0D) ∨ op = 0x3F := by
    simp only [reservedOp, Bool.or_eq_false_iff, Bool.and_eq_false_iff, beq_eq_false_iff_ne,
      decide_eq_false_iff_not] at hdefined
    omega
  clear hop hdefined
  simp only [opcodeTable, List.exists_mem_cons_iff, Row.TakesFn, fieldOP, fieldFN, reservedFn, BitVec.reduceExtractLsb',
    BitVec.reduceToNat, BitVec.ofNat_eq_ofNat, BitVec.reduceEq, List.not_mem_nil, false_and, exists_false,
    false_or, true_or, and_true, or_false]
  obtain ⟨hlow, hhigh⟩ | rfl := hvalues
  · interval_cases op
    all_goals simp
    all_goals omega
  · simp

/-! ### Decoding -/

/-- A word is illegal exactly when it fits no row (R106). -/
theorem decode_error_iff (w : Word) : (∃ e, decode w = .error e) ↔ ¬∃ r ∈ opcodeTable, r.fits w = true := by
  unfold decode
  cases h : opcodeTable.find? (·.fits w) with
  | none => simpa using h
  | some r => simpa using ⟨r, List.mem_of_find?_eq_some h, by simpa using List.find?_some h⟩

/-- R99 to R101: a word is illegal exactly when one of the three makes it so. -/
theorem decode_error_iff_reserved (w : Word) : (∃ e, decode w = .error e) ↔
    (reservedOp (fieldOP w) = true ∨ ¬ZeroFieldsAreZero w ∨ reservedFn (fieldOP w) (fieldFN w) = true) := by
  rw [decode_error_iff]
  by_cases hop : reservedOp (fieldOP w) = true
  · refine iff_of_true (fun ⟨r, hr, hfit⟩ => ?_) (.inl hop)
    obtain ⟨hrow, -, -⟩ := (Row.fits_iff hr w).mp hfit
    rw [hrow, reservedOp_eq_false_of_mem r hr] at hop
    cases hop
  · rw [Bool.not_eq_true] at hop
    have hfits : (∃ r ∈ opcodeTable, r.fits w = true) ↔
        ZeroFieldsAreZero w ∧ reservedFn (fieldOP w) (fieldFN w) = false := by
      rw [← exists_row_takesFn_iff (fieldOP_lt w) hop]
      constructor
      · rintro ⟨r, hr, hfit⟩
        obtain ⟨hrow, hzero, hfn⟩ := (Row.fits_iff hr w).mp hfit
        exact ⟨hzero, r, hr, hrow, hfn⟩
      · rintro ⟨hzero, r, hr, hrow, hfn⟩
        exact ⟨r, hr, (Row.fits_iff hr w).mpr ⟨hrow, hzero, hfn⟩⟩
    rw [hfits, hop, not_and_or, Bool.not_eq_false]
    simp

end Sys2Proof
end

section
/-! SUPPORT. The sequencer's turn as a step, and the frame of an instruction that writes nothing but PC. -/

namespace Sys2Proof.Machine

/-- A turn of the sequencer is the whole step (R17). -/
theorem SequencerTurn.step_eq {s s' : State} (h : SequencerTurn s s') : step s = sequence s' := by
  obtain ⟨hhost, rfl⟩ | ⟨rest, hhost, rfl⟩ := h
  · rw [step, turn, hhost]
  · rw [step, turn, hhost]

/-- A word that does not decode makes the turn enter the ILLEGAL fault (R99, R215). -/
theorem sequence_illegal {s : State} (hrun : s.run = .running) (hpc : s.pc < s.imemWords)
    (h : ∃ e, decode s.fetch = .error e) : sequence s = .next (s.takeFault .illegal s.fetch) := by
  obtain ⟨e, he⟩ := h
  rw [sequence, if_pos hrun, cycle, if_neg (Nat.not_le.mpr hpc), he]

theorem Frame.refl (us : List UReg) (es : List EReg) (a n : Nat) (s : State) : Frame us es a n s s :=
  ⟨.refl us s, .refl es s, .refl a n s, .refl s, ⟨rfl, rfl, rfl, rfl⟩, .refl s, rfl⟩

theorem Frame.advance {us : List UReg} {es : List EReg} {a n : Nat} {s t : State} (h : Frame us es a n s t) :
    Frame us es a n s t.advance :=
  ⟨h.values, h.predicates, h.dmem, h.imem, ⟨h.run.run, h.run.faultCause, h.run.faultPc, h.run.faultInsn⟩,
    h.hostSide.advance, h.draws⟩

/-- PAND, POR and PXOR to E0 change nothing but PC: the write is discarded (R26). -/
theorem predicateLogic_zero (op : Bool → Bool → Bool) (pa pb : EReg) (s : State) :
    ∃ t, predicateLogic op 0 pa pb s = .next t ∧ t.pc = s.pc + 1 ∧ Frame [] [] 0 0 s t :=
  ⟨s.advance, rfl, rfl, (Frame.refl ..).advance⟩

end Sys2Proof.Machine
end

section
/-! SUPPORT. The word of format R as a number (R91). -/

namespace Sys2Proof

theorem ofNat_shiftLeft_toNat {x k : Nat} (h : x <<< k < 2 ^ 32) : (BitVec.ofNat 32 x <<< k).toNat = x <<< k := by
  rw [Nat.shiftLeft_eq] at h ⊢
  rw [BitVec.toNat_shiftLeft, BitVec.toNat_ofNat, Nat.shiftLeft_eq, Nat.mod_mul_mod, Nat.mod_eq_of_lt h]

/-- The fields of format R do not overlap: its word is the sum of the fields, each at its weight. -/
theorem formatR_toNat {op fn : Nat} (hop : op < 64) (hfn : fn < 2 ^ 12) (ua ub : UReg) (pe pd pa pb : EReg) :
    (formatR op ua ub pe pd pa pb fn).toNat = op * 2 ^ 26 + ua.val * 2 ^ 23 + ub.val * 2 ^ 20 + pe.val * 2 ^ 18 +
      pd.val * 2 ^ 16 + pa.val * 2 ^ 14 + pb.val * 2 ^ 12 + fn := by
  have hbits : (formatR op ua ub pe pd pa pb fn).toNat = op <<< 26 ||| (ua.val <<< 23 ||| (ub.val <<< 20 |||
      (pe.val <<< 18 ||| (pd.val <<< 16 ||| (pa.val <<< 14 ||| (pb.val <<< 12 ||| fn)))))) := by
    simp only [formatR, BitVec.toNat_or, Nat.or_assoc]
    rw [ofNat_shiftLeft_toNat, ofNat_shiftLeft_toNat, ofNat_shiftLeft_toNat, ofNat_shiftLeft_toNat,
      ofNat_shiftLeft_toNat, ofNat_shiftLeft_toNat, ofNat_shiftLeft_toNat, BitVec.toNat_ofNat, Nat.mod_eq_of_lt]
    all_goals omega
  rw [hbits, ← Nat.shiftLeft_add_eq_or_of_lt (i := 12), ← Nat.shiftLeft_add_eq_or_of_lt (i := 14),
    ← Nat.shiftLeft_add_eq_or_of_lt (i := 16), ← Nat.shiftLeft_add_eq_or_of_lt (i := 18),
    ← Nat.shiftLeft_add_eq_or_of_lt (i := 20), ← Nat.shiftLeft_add_eq_or_of_lt (i := 23),
    ← Nat.shiftLeft_add_eq_or_of_lt (i := 26)]
  all_goals omega

end Sys2Proof
end

section
/-! SUPPORT. The statements about the encoding of 30_encoding.md, settled. -/

namespace Sys2Proof.Machine

/-- Settles O27: the decoder's rows taken apart by OP, must-be-zero fields and FN. -/
theorem illegalWordsAreTheReservedOnes : Obligations.IllegalWordsAreTheReservedOnes := by
  refine ⟨decode_error_iff_reserved, fun s s' hturn hrun hpc hreserved => ?_⟩
  have hillegal := (decode_error_iff_reserved s.fetch).mpr hreserved
  rw [hturn.step_eq]
  obtain ⟨rest, rfl⟩ := hturn.eq_withHost
  exact ⟨_, sequence_illegal hrun hpc hillegal, State.takeFault_enters _ _ _⟩

/-- Settles O29: the expansions are the definitions, and their words are format R's sum of fields. -/
theorem pseudoInstructionWords : Obligations.PseudoInstructionWords := by
  refine ⟨fun _ _ => rfl, rfl, fun _ => ⟨rfl, rfl⟩, fun _ _ => ⟨rfl, rfl⟩, predicateLogic_zero _ 0 0,
    predicateLogic_zero _ 0 0, fun ua ub => ?mov, ?nop, fun d => ?pset, fun d => ?pclr, fun a d => ?pnot,
    fun a d => ?pmov⟩
  case mov => simp [pseudoMov, encode, formatR_toNat]
  case nop => simp [pseudoNop, encode, formatR_toNat]
  case pset => simp [pseudoPset, encode, formatR_toNat]
  case pclr =>
    simp only [pseudoPclr, encode, formatR_toNat, Nat.reduceLT, Nat.reducePow, Fin.val_zero]
    omega
  case pnot =>
    simp only [pseudoPnot, encode, formatR_toNat, Nat.reduceLT, Nat.reducePow, Fin.val_zero]
    omega
  case pmov => simp [pseudoPmov, encode, formatR_toNat]

end Sys2Proof.Machine
end

section
/-! SUPPORT. The eight words of a value and the value again (R22), and the mask blend on them (R122). -/

namespace Sys2Proof.Machine

/-- The words from word `j` on, `n` of them, are the value's bits from bit 32j, 32n of them. -/
theorem wordsNat_valueWord_range' (v : Value) (n : Nat) : ∀ j : Nat,
    wordsNat ((List.range' j n).map (valueWord v)) = v.toNat / 2 ^ (32 * j) % 2 ^ (32 * n) := by
  induction n with
  | zero =>
    intro j
    simp [wordsNat, Nat.mod_one]
  | succ n ih =>
    intro j
    have hword : (valueWord v j).toNat = v.toNat / 2 ^ (32 * j) % 2 ^ 32 := by
      rw [valueWord, BitVec.extractLsb'_toNat, Nat.shiftRight_eq_div_pow]
    rw [List.range'_succ, List.map_cons, wordsNat, ih, hword, Nat.mul_succ 32 j, Nat.mul_succ 32 n, Nat.pow_add,
      ← Nat.div_div_eq_div_mul, Nat.add_comm (32 * n), Nat.pow_add, Nat.mod_mul]

/-- A value is the value of its eight words (R22). -/
@[simp] theorem ofWords_valueWords (v : Value) : ofWords (valueWords v) = v := by
  rw [ofWords, valueWords, List.range_eq_range', wordsNat_valueWord_range', Nat.mul_zero, Nat.pow_zero, Nat.div_one,
    Nat.mod_eq_of_lt v.isLt, BitVec.ofNat_toNat, BitVec.setWidth_eq]

theorem enableMask_true : enableMask true = BitVec.allOnes 32 := by decide
theorem enableMask_false : enableMask false = 0 := by decide

/-- With mask all ones or all zeros, a blended word is one of the two words. -/
theorem blendWord_eq_sel (en : Bool) (new old : Word) : blendWord en new old = sel en new old := by
  cases en with
  | true =>
    rw [blendWord, enableMask_true, BitVec.not_allOnes, BitVec.and_allOnes, BitVec.and_zero, BitVec.or_zero]
    rfl
  | false =>
    rw [blendWord, enableMask_false, BitVec.ofNat_eq_ofNat, BitVec.not_zero, BitVec.and_allOnes, BitVec.and_zero,
      BitVec.zero_or]
    rfl

/-- The blend goes word by word: each word of the result from the two words of its own index. -/
theorem blend_eq_ofWords_map (en : Bool) (new old : Value) :
    blend en new old = ofWords ((List.range 8).map fun j => sel en (valueWord new j) (valueWord old j)) := by
  simp only [blend, valueWords, List.zipWith_map, List.zipWith_self, blendWord_eq_sel]

end Sys2Proof.Machine
end

section
/-! SUPPORT. The fields of a word of format R read back (R91), and when the decoder reads an instruction from its
word (R94, R106). -/

namespace Sys2Proof
open Machine

/-! ### The fields of format R -/

/-- The register in the `n` bits of a word from bit `k` is their number. -/
theorem registerField_eq_iff {k n : Nat} (w : Word) (r : Fin (2 ^ n)) :
    Fin.ofNat (2 ^ n) (w.extractLsb' k n).toNat = r ↔ w.toNat / 2 ^ k % 2 ^ n = r.val := by
  rw [Fin.ext_iff, Fin.val_ofNat, BitVec.extractLsb'_toNat, Nat.mod_mod, Nat.shiftRight_eq_div_pow]

section
variable {op fn : Nat} (hop : op < 64) (hfn : fn < 2 ^ 12) (ua ub : UReg) (pe pd pa pb : EReg)
include hop hfn

theorem fieldUA_formatR : fieldUA (formatR op ua ub pe pd pa pb fn) = ua := by
  refine (registerField_eq_iff (n := 3) _ ua).mpr ?_
  rw [formatR_toNat hop hfn]
  omega

theorem fieldUB_formatR : fieldUB (formatR op ua ub pe pd pa pb fn) = ub := by
  refine (registerField_eq_iff (n := 3) _ ub).mpr ?_
  rw [formatR_toNat hop hfn]
  omega

theorem fieldPE_formatR : fieldPE (formatR op ua ub pe pd pa pb fn) = pe := by
  refine (registerField_eq_iff (n := 2) _ pe).mpr ?_
  rw [formatR_toNat hop hfn]
  omega

end

/-! ### The decoder on a word that fits a row -/

/-- No word fits two rows: any two of them fix some bit differently (R94). -/
theorem opcodeTable_pairwise_disjoint :
    opcodeTable.Pairwise fun r q => r.pattern &&& q.mask ≠ q.pattern &&& r.mask := by decide

/-- A word that fits a row decodes to that row's instruction (R106). -/
theorem decode_of_fits {r : Row} (hr : r ∈ opcodeTable) {w : Word} (hfit : r.fits w = true) :
    decode w = .ok (r.build w) := by
  have hdisjoint : opcodeTable.Pairwise fun r q => r.fits w = true → q.fits w ≠ true :=
    opcodeTable_pairwise_disjoint.imp fun {r q} hne hr hq => hne <| by
      rw [Row.fits, beq_iff_eq] at hr hq
      rw [← hr, ← hq, BitVec.and_assoc, BitVec.and_assoc, BitVec.and_comm r.mask]
  have hfind : opcodeTable.find? (·.fits w) = some r := by
    obtain ⟨before, after, hsplit⟩ := List.append_of_mem hr
    rw [hsplit, List.pairwise_append] at hdisjoint
    obtain ⟨-, -, hbefore⟩ := hdisjoint
    refine List.find?_eq_some_iff_append.mpr ⟨hfit, before, after, hsplit, fun q hq => ?_⟩
    simpa using fun hqfit => hbefore q hq r List.mem_cons_self hqfit hfit
  rw [decode, hfind]

/-- An instruction's encoding is its word if row `n` of the opcode table is the instruction's own and reads its
operands back. -/
theorem isWordOf_encode {i : Instr} (n : Nat) {r : Row} (hr : opcodeTable[n]? = some r)
    (hbits : i.rowBits = (r.pattern, r.mask)) (hrow : Laws.EncodesItsRow.Statement i)
    (hbuild : r.build (encode i) = i) : IsWordOf (encode i) i := by
  have hfit : r.fits (encode i) = true := by
    rw [Laws.EncodesItsRow.Statement, hbits] at hrow
    exact beq_iff_eq.mpr hrow
  exact ⟨rfl, by rw [decode_of_fits (List.mem_of_getElem? hr) hfit, hbuild]⟩

end Sys2Proof
end

section
/-! SUPPORT. The frame of an instruction that writes value registers, the two UNINIT checks as one condition, and what
REPLACE and SWAP do on either side of theirs (R120, R121). -/

namespace Sys2Proof.Machine

/-- A write to a value register that the frame names stays inside the frame. -/
theorem Frame.writeU {us : List UReg} {es : List EReg} {a n : Nat} {s t : State} (h : Frame us es a n s t) {r : UReg}
    (hr : r ∈ us) (x : Value) : Frame us es a n s (t.writeU r x) where
  values q hq := by
    have hne : r ≠ q := fun heq => hq (heq ▸ hr)
    simpa [hne] using h.values q hq
  predicates := h.predicates
  dmem := h.dmem
  imem := h.imem
  run := ⟨h.run.run, h.run.faultCause, h.run.faultPc, h.run.faultInsn⟩
  hostSide := h.hostSide.writeU
  draws := h.draws

/-- The checks of an instruction that reads two registers pass exactly when both are written (R24). -/
theorem State.firstFault_pairChecks (s : State) (ua ub : UReg) :
    firstFault (s.pairChecks ua ub) = if s.valid ua = true ∧ s.valid ub = true then none else some .uninit := by
  cases ha : s.valid ua with
  | false => simp [State.pairChecks, State.unwritten, ha]
  | true => cases hb : s.valid ub <;> simp [State.pairChecks, State.unwritten, ha, hb]

/-- The choice by the enable, in terms of the predicate register it names (R13, R15). -/
theorem State.sel_enable (s : State) (pe : EReg) (x y : Value) :
    sel (s.enable pe) x y = if s.readE pe = true then x else y := rfl

variable {s : State} {ua ub : UReg} {pe : EReg}

/-! ### REPLACE -/

/-- REPLACE reads U[UB] always and U[UA] only under a predicate that is not E0. -/
theorem execReplace_commits (hb : s.valid ub = true) (ha : pe ≠ 0 → s.valid ua = true) :
    execReplace ua ub pe s = .next (s.writeU ua (sel (s.enable pe) (s.readU ub) (s.readU ua))).advance :=
  s.retire_commits _ (by simpa [State.unwritten, hb] using ha)

theorem execReplace_faults (h : s.valid ub = false ∨ (pe ≠ 0 ∧ s.valid ua = false)) :
    ∃ t, execReplace ua ub pe s = .next t ∧ EntersFault .uninit s.fetch s t := by
  refine s.retire_enters _ ?_
  obtain hb | ⟨hpe, ha⟩ := h
  · simp [State.unwritten, hb]
  · simp [State.unwritten, hpe, ha]

theorem isWordOf_replace (ua ub : UReg) (pe : EReg) :
    IsWordOf (formatR 0x01 ua ub pe 0 0 0 0) (.replace ua ub pe) :=
  isWordOf_encode 0 rfl rfl (Laws.EncodesItsRow.replace ua ub pe)
    (by simp [encode, fieldUA_formatR, fieldUB_formatR, fieldPE_formatR])

/-! ### SWAP -/

theorem execSwap_commits (ha : s.valid ua = true) (hb : s.valid ub = true) :
    execSwap ua ub pe s = .next ((s.writeU ua (sel (s.enable pe) (s.readU ub) (s.readU ua))).writeU ub
      (sel (s.enable pe) (s.readU ua) (s.readU ub))).advance :=
  s.retire_commits _ (by rw [s.firstFault_pairChecks, if_pos ⟨ha, hb⟩])

theorem execSwap_faults (h : s.valid ua = false ∨ s.valid ub = false) :
    ∃ t, execSwap ua ub pe s = .next t ∧ EntersFault .uninit s.fetch s t := by
  have hnot : ¬(s.valid ua = true ∧ s.valid ub = true) := by
    rintro ⟨ha, hb⟩
    simp [ha, hb] at h
  exact s.retire_enters _ (by rw [s.firstFault_pairChecks, if_neg hnot])

theorem isWordOf_swap (ua ub : UReg) (pe : EReg) : IsWordOf (formatR 0x02 ua ub pe 0 0 0 0) (.swap ua ub pe) :=
  isWordOf_encode 1 rfl rfl (Laws.EncodesItsRow.swap ua ub pe)
    (by simp [encode, fieldUA_formatR, fieldUB_formatR, fieldPE_formatR])

end Sys2Proof.Machine
end

section
/-! SUPPORT. The statements about select and swap of 40_select_swap.md, settled. -/

namespace Sys2Proof.Machine

/-- Settles O55: under either enable the blended words are all the words of one value. -/
theorem blendIsSelect : Obligations.BlendIsSelect := by
  intro en new old
  rw [blend_eq_ofWords_map]
  cases en with
  | true => exact ofWords_valueWords new
  | false => exact ofWords_valueWords old

/-- Settles O1: the one write of REPLACE and its frame, its two checks, and its row of the opcode table. -/
theorem replaceSelectsByEnable : Obligations.ReplaceSelectsByEnable := by
  refine ⟨fun s ua ub pe hb ha => ⟨_, execReplace_commits hb ha, ?_, ?_, rfl, ?_⟩,
    fun s ua ub pe h => execReplace_faults h, isWordOf_replace⟩
  · simp [State.sel_enable]
  · simp
  · exact ((Frame.refl ..).writeU List.mem_cons_self _).advance

/-- Settles O2: SWAP's second write covers its first only where UA = UB, and there both write the old value back. -/
theorem swapExchangesByEnable : Obligations.SwapExchangesByEnable := by
  refine ⟨fun s ua ub pe ha hb => ⟨_, execSwap_commits ha hb, ?_, ?_, ?_, ?_, rfl, ?_⟩,
    fun s ua ub pe h => execSwap_faults h, isWordOf_swap⟩
  · by_cases h : ub = ua <;> simp [State.sel_enable, h]
  · simp [State.sel_enable]
  · simp
  · simp
  · exact (((Frame.refl ..).writeU (by simp) _).writeU (by simp) _).advance

end Sys2Proof.Machine
end

section
/-! SUPPORT. The carry and borrow chains of R131 and R133: over any number of word pairs, the words and the last carry
or borrow are together the exact sum or difference. -/

namespace Sys2Proof.Machine

/-! ### The integer of a list of words (R22) -/

theorem wordsNat_valueWords (v : Value) : wordsNat (valueWords v) = v.toNat := by
  rw [valueWords, List.range_eq_range', wordsNat_valueWord_range', Nat.mul_zero, Nat.pow_zero, Nat.div_one,
    Nat.mod_eq_of_lt v.isLt]

theorem length_valueWords (v : Value) : (valueWords v).length = 8 := by simp [valueWords]

theorem map_fst_zip_valueWords (a b : Value) : (List.zip (valueWords a) (valueWords b)).map Prod.fst = valueWords a :=
  List.map_fst_zip (by rw [length_valueWords, length_valueWords])

theorem map_snd_zip_valueWords (a b : Value) : (List.zip (valueWords a) (valueWords b)).map Prod.snd = valueWords b :=
  List.map_snd_zip (by rw [length_valueWords, length_valueWords])

theorem length_zip_valueWords (a b : Value) : (List.zip (valueWords a) (valueWords b)).length = 8 := by
  rw [List.length_zip, length_valueWords, length_valueWords, Nat.min_self]

theorem wordsNat_lt (ws : List Word) : wordsNat ws < 2 ^ (32 * ws.length) := by
  induction ws with
  | nil => simp [wordsNat]
  | cons w ws ih =>
    have hw := w.isLt
    rw [wordsNat, List.length_cons, Nat.mul_succ, Nat.pow_add]
    omega

/-- A word under the mask is the word times the enable. -/
theorem and_enableMask_toNat (en : Bool) (w : Word) : (w &&& enableMask en).toNat = en.toNat * w.toNat := by
  cases en with
  | true => rw [enableMask_true, BitVec.and_allOnes, Bool.toNat_true, Nat.one_mul]
  | false => simp [enableMask_false]

/-- The operand that the enable gates, as a number, is still below 2^256. -/
theorem enable_mul_lt (en : Bool) (b : Value) : en.toNat * b.toNat < 2 ^ 256 := by
  cases en with
  | true =>
    rw [Bool.toNat_true, Nat.one_mul]
    exact b.isLt
  | false => simp

/-! ### The carry chain (R131) -/

theorem length_addChain (mask : Word) (ps : List (Word × Word)) : ∀ c, (addChain mask ps c).1.length = ps.length := by
  induction ps with
  | nil => exact fun _ => rfl
  | cons p ps ih => exact fun c => congrArg (· + 1) (ih _)

/-- Each word of the chain keeps the low 32 bits of its sum and hands on the rest, so nothing of the sum is lost. -/
theorem addChain_sum (en : Bool) (ps : List (Word × Word)) : ∀ c,
    wordsNat (addChain (enableMask en) ps c).1 + 2 ^ (32 * ps.length) * (addChain (enableMask en) ps c).2 =
      wordsNat (ps.map Prod.fst) + en.toNat * wordsNat (ps.map Prod.snd) + c := by
  induction ps with
  | nil => simp [addChain, wordsNat]
  | cons p ps ih =>
    intro c
    obtain ⟨a, b⟩ := p
    obtain ⟨t, ht⟩ : ∃ t, t = a.toNat + en.toNat * b.toNat + c := ⟨_, rfl⟩
    have hsplit : t % 2 ^ 32 + 2 ^ 32 * (t / 2 ^ 32) = t := Nat.mod_add_div t _
    have hrest := ih (t / 2 ^ 32)
    simp only [addChain, and_enableMask_toNat, ← ht, wordsNat, BitVec.toNat_ofNat, List.length_cons, List.map_cons]
    rw [Nat.mul_succ, Nat.pow_add]
    linear_combination hsplit + 2 ^ 32 * hrest + ht

/-! ### The borrow chain (R133) -/

theorem length_subChain (mask : Word) (ps : List (Word × Word)) : ∀ c, (subChain mask ps c).1.length = ps.length := by
  induction ps with
  | nil => exact fun _ => rfl
  | cons p ps ih => exact fun c => congrArg (· + 1) (ih _)

/-- One word of the borrow chain: with at most 1 borrowed before, at most one 2^32 is missing. -/
theorem emod_sub_borrow {t : Int} (hlo : -2 ^ 32 ≤ t) (hhi : t < 2 ^ 32) :
    t % 2 ^ 32 - 2 ^ 32 * (if t < 0 then 1 else 0) = t := by
  split <;> omega

/-- Each word of the chain keeps its difference modulo 2^32 and borrows what is missing, so nothing of the difference
is lost. -/
theorem subChain_difference (en : Bool) (ps : List (Word × Word)) : ∀ c : Int, 0 ≤ c → c ≤ 1 →
    (wordsNat (subChain (enableMask en) ps c).1 : Int) -
        2 ^ (32 * ps.length) * (subChain (enableMask en) ps c).2 =
      wordsNat (ps.map Prod.fst) - en.toNat * wordsNat (ps.map Prod.snd) - c := by
  induction ps with
  | nil => simp [subChain, wordsNat]
  | cons p ps ih =>
    intro c hc0 hc1
    obtain ⟨a, b⟩ := p
    have ha := a.isLt
    have hb := (b &&& enableMask en).isLt
    obtain ⟨t, ht⟩ : ∃ t : Int, t = (a.toNat : Int) - ((b &&& enableMask en).toNat : Int) - c := ⟨_, rfl⟩
    have hword : ((BitVec.ofInt 32 t).toNat : Int) = t % 2 ^ 32 := by
      rw [BitVec.toNat_ofInt]
      omega
    have hsplit := emod_sub_borrow (t := t) (by omega) (by omega)
    have hrest := ih (if t < 0 then 1 else 0) (by split <;> omega) (by split <;> omega)
    simp only [subChain, ← ht, wordsNat, List.length_cons, List.map_cons, Nat.cast_add, Nat.cast_mul, Nat.cast_pow,
      Nat.cast_ofNat, hword]
    rw [and_enableMask_toNat, Nat.cast_mul] at ht
    rw [Nat.mul_succ, pow_add]
    linear_combination hsplit + 2 ^ 32 * hrest + ht

end Sys2Proof.Machine
end

section
/-! SUPPORT. What ADD and SUB write, as numbers (R130, R132), their three checks, and their words. -/

namespace Sys2Proof
open Machine

theorem fieldPD_formatR {op fn : Nat} (hop : op < 64) (hfn : fn < 2 ^ 12) (ua ub : UReg) (pe pd pa pb : EReg) :
    fieldPD (formatR op ua ub pe pd pa pb fn) = pd := by
  refine (registerField_eq_iff (n := 2) _ pd).mpr ?_
  rw [formatR_toNat hop hfn]
  omega

theorem isWordOf_add (ua ub : UReg) (pe pd : EReg) : IsWordOf (formatR 0x03 ua ub pe pd 0 0 0) (.add ua ub pe pd) :=
  isWordOf_encode 2 rfl rfl (Laws.EncodesItsRow.add ua ub pe pd)
    (by simp [encode, fieldUA_formatR, fieldUB_formatR, fieldPE_formatR, fieldPD_formatR])

theorem isWordOf_sub (ua ub : UReg) (pe pd : EReg) : IsWordOf (formatR 0x04 ua ub pe pd 0 0 0) (.sub ua ub pe pd) :=
  isWordOf_encode 3 rfl rfl (Laws.EncodesItsRow.sub ua ub pe pd)
    (by simp [encode, fieldUA_formatR, fieldUB_formatR, fieldPE_formatR, fieldPD_formatR])

end Sys2Proof

namespace Sys2Proof.Machine

/-! ### The values and flags -/

theorem sumValue_toNat (en : Bool) (a b : Value) :
    (sumValue en a b).toNat = (a.toNat + en.toNat * b.toNat) % 2 ^ 256 :=
  BitVec.toNat_ofNat _ _

/-- The carry is the quotient: the sum of two numbers below 2^256 is below 2 * 2^256. -/
theorem carryOut_toNat (en : Bool) (a b : Value) :
    (carryOut en a b).toNat = (a.toNat + en.toNat * b.toNat) / 2 ^ 256 := by
  have ha := a.isLt
  have hb := enable_mul_lt en b
  rw [carryOut]
  by_cases h : 2 ^ 256 ≤ a.toNat + en.toNat * b.toNat
  · rw [decide_eq_true h, Bool.toNat_true]
    omega
  · rw [decide_eq_false h, Bool.toNat_false]
    omega

theorem differenceValue_toNat (en : Bool) (a b : Value) :
    ((differenceValue en a b).toNat : Int) = ((a.toNat : Int) - (en.toNat : Int) * (b.toNat : Int)) % 2 ^ 256 := by
  rw [differenceValue, BitVec.toNat_ofInt, Nat.cast_mul]
  omega

theorem borrowOut_iff (en : Bool) (a b : Value) :
    borrowOut en a b = true ↔ (a.toNat : Int) - (en.toNat : Int) * (b.toNat : Int) < 0 := by
  rw [borrowOut, decide_eq_true_iff, ← Nat.cast_mul]
  omega

/-! ### The checks and the frame -/

/-- A write to a predicate register that the frame names stays inside the frame. -/
theorem Frame.writeE {us : List UReg} {es : List EReg} {a n : Nat} {s t : State} (h : Frame us es a n s t) {e : EReg}
    (he : e ∈ es) (b : Bool) : Frame us es a n s (t.writeE e b) where
  values q hq := by simpa using h.values q hq
  predicates q hq := by
    have hne : q ∉ [e] := fun hmem => hq (List.mem_singleton.mp hmem ▸ he)
    rw [t.writeE_keeps e b q hne, h.predicates q hq]
  dmem c hc := by simpa using h.dmem c hc
  imem i := by simpa using h.imem i
  run := by constructor <;> simp [h.run.run, h.run.faultCause, h.run.faultPc, h.run.faultInsn]
  hostSide := h.hostSide.writeE
  draws := by simpa using h.draws

/-- The checks of ADD and SUB: ALIAS comes before UNINIT (R213). -/
theorem State.firstFault_aliasChecks (s : State) (ua ub : UReg) :
    firstFault ((decide (ua = ub), .aliased) :: s.pairChecks ua ub) =
      if ua = ub then some .aliased else if s.valid ua = true ∧ s.valid ub = true then none else some .uninit := by
  rw [firstFault_cons, s.firstFault_pairChecks]
  simp only [decide_eq_true_eq]

section
variable {s : State} {ua ub : UReg} (effect : State)

theorem State.retire_aliasChecks_commits (hne : ua ≠ ub) (ha : s.valid ua = true) (hb : s.valid ub = true) :
    s.retire ((decide (ua = ub), .aliased) :: s.pairChecks ua ub) effect = .next effect :=
  s.retire_commits effect (by rw [s.firstFault_aliasChecks, if_neg hne, if_pos ⟨ha, hb⟩])

theorem State.retire_aliasChecks_aliased (h : ua = ub) :
    ∃ t, s.retire ((decide (ua = ub), .aliased) :: s.pairChecks ua ub) effect = .next t ∧
      EntersFault .aliased s.fetch s t :=
  s.retire_enters effect (by rw [s.firstFault_aliasChecks, if_pos h])

theorem State.retire_aliasChecks_uninit (hne : ua ≠ ub) (h : s.valid ua = false ∨ s.valid ub = false) :
    ∃ t, s.retire ((decide (ua = ub), .aliased) :: s.pairChecks ua ub) effect = .next t ∧
      EntersFault .uninit s.fetch s t := by
  have hnot : ¬(s.valid ua = true ∧ s.valid ub = true) := by
    rintro ⟨ha, hb⟩
    simp [ha, hb] at h
  exact s.retire_enters effect (by rw [s.firstFault_aliasChecks, if_neg hne, if_neg hnot])

end

/-- The effect of an instruction that writes one value register and one predicate register. -/
theorem State.frame_writeU_writeE_advance (s : State) (r : UReg) (x : Value) (e : EReg) (b : Bool) :
    Frame [r] [e] 0 0 s ((s.writeU r x).writeE e b).advance :=
  (((Frame.refl ..).writeU List.mem_cons_self x).writeE List.mem_cons_self b).advance

end Sys2Proof.Machine
end

section
/-! SUPPORT. The statements about ADD and SUB of 41_arithmetic.md, settled. -/

namespace Sys2Proof.Machine

/-- Settles O56: the chain's words are the sum's remainder by 2^256 and its last carry the quotient. -/
theorem carryChainComputesAdd : Obligations.CarryChainComputesAdd := by
  intro en a b
  have ha := a.isLt
  have hb := enable_mul_lt en b
  have hsum := addChain_sum en (List.zip (valueWords a) (valueWords b)) 0
  have hlt := wordsNat_lt (addChain (enableMask en) (List.zip (valueWords a) (valueWords b)) 0).1
  rw [map_fst_zip_valueWords, map_snd_zip_valueWords, wordsNat_valueWords, wordsNat_valueWords,
    length_zip_valueWords] at hsum
  rw [length_addChain, length_zip_valueWords] at hlt
  refine Prod.ext (BitVec.eq_of_toNat_eq ?value) (decide_eq_decide.mpr ?carry)
  case value =>
    rw [sumValue_toNat, addWords, ofWords, BitVec.toNat_ofNat]
    omega
  case carry => omega

/-- Settles O57: the chain's words are the difference's remainder by 2^256, and its last borrow says whether a 2^256
was missing. -/
theorem borrowChainComputesSub : Obligations.BorrowChainComputesSub := by
  intro en a b
  have ha := a.isLt
  have hb := enable_mul_lt en b
  have hdiff := subChain_difference en (List.zip (valueWords a) (valueWords b)) 0 le_rfl zero_le_one
  have hlt := wordsNat_lt (subChain (enableMask en) (List.zip (valueWords a) (valueWords b)) 0).1
  rw [map_fst_zip_valueWords, map_snd_zip_valueWords, wordsNat_valueWords, wordsNat_valueWords,
    length_zip_valueWords, ← Nat.cast_mul] at hdiff
  rw [length_subChain, length_zip_valueWords] at hlt
  refine Prod.ext (BitVec.eq_of_toNat_eq (Int.ofNat_inj.mp ?value)) (decide_eq_decide.mpr ?borrow)
  case value =>
    rw [differenceValue_toNat, subWords, ofWords, BitVec.toNat_ofNat, ← Nat.cast_mul]
    omega
  case borrow => omega

/-- Settles O3: the sum and its carry in the state that ADD commits, and the checks before it. -/
theorem addWritesSumAndCarry : Obligations.AddWritesSumAndCarry := by
  refine ⟨fun s ua ub pe pd hne ha hb =>
      ⟨_, State.retire_aliasChecks_commits _ hne ha hb, ?sum, fun hpd => ?carry, rfl, ?valid, ?pc,
        s.frame_writeU_writeE_advance ..⟩,
    fun s ua ub pe pd h => State.retire_aliasChecks_aliased _ h,
    fun s ua ub pe pd hne h => State.retire_aliasChecks_uninit _ hne h, isWordOf_add⟩
  case sum => simpa [State.enable] using sumValue_toNat (s.readE pe) (s.readU ua) (s.readU ub)
  case carry => simpa [State.enable, hpd] using carryOut_toNat (s.readE pe) (s.readU ua) (s.readU ub)
  case valid => simp
  case pc => simp

/-- Settles O4: the difference and its borrow in the state that SUB commits, and the checks before it. -/
theorem subWritesDifferenceAndBorrow : Obligations.SubWritesDifferenceAndBorrow := by
  refine ⟨fun s ua ub pe pd hne ha hb =>
      ⟨_, State.retire_aliasChecks_commits _ hne ha hb, ?difference, fun hpd => ?borrow, rfl, ?valid, ?pc,
        s.frame_writeU_writeE_advance ..⟩,
    fun s ua ub pe pd h => State.retire_aliasChecks_aliased _ h,
    fun s ua ub pe pd hne h => State.retire_aliasChecks_uninit _ hne h, isWordOf_sub⟩
  case difference => simpa [State.enable] using differenceValue_toNat (s.readE pe) (s.readU ua) (s.readU ub)
  case borrow => simpa [State.enable, hpd] using borrowOut_iff (s.readE pe) (s.readU ua) (s.readU ub)
  case valid => simp
  case pc => simp

end Sys2Proof.Machine
end

section
/-! SUPPORT. The word-level shifts of R142: over any number of words, the shifted words are the number doubled or
halved. -/

namespace Sys2Proof.Machine

/-- Bit 31 of a word is what its doubling carries out of 32 bits. -/
theorem word_getLsbD_31_toNat (w : Word) : (w.getLsbD 31).toNat = w.toNat * 2 / 2 ^ 32 := by
  have hw := w.isLt
  rw [BitVec.getLsbD, Nat.toNat_testBit]
  omega

/-- Bit 0 of a word is its parity. -/
theorem word_getLsbD_0_toNat (w : Word) : (w.getLsbD 0).toNat = w.toNat % 2 := by
  rw [BitVec.getLsbD, Nat.toNat_testBit, Nat.pow_zero, Nat.div_one]

/-- The bit that each word hands to the next one completes the doubling; only the last word's bit is lost. -/
theorem wordsNat_shlChain (ws : List Word) : ∀ c, c ≤ 1 →
    wordsNat (shlChain c ws) = (wordsNat ws * 2 + c) % 2 ^ (32 * ws.length) := by
  induction ws with
  | nil => simp [shlChain, wordsNat, Nat.mod_one]
  | cons w ws ih =>
    intro c hc
    have hout := word_getLsbD_31_toNat w
    have hrest := ih (w.getLsbD 31).toNat (Bool.toNat_le _)
    have hlow : ((w.toNat + 2 ^ 32 * wordsNat ws) * 2 + c) % 2 ^ 32 = w.toNat * 2 % 2 ^ 32 + c := by omega
    have hhigh : ((w.toNat + 2 ^ 32 * wordsNat ws) * 2 + c) / 2 ^ 32 = wordsNat ws * 2 + (w.getLsbD 31).toNat := by
      omega
    have hword : w.toNat * 2 % 2 ^ 32 + c < 2 ^ 32 := by omega
    rw [shlChain, wordsNat, wordsNat, BitVec.toNat_ofNat, Nat.mod_eq_of_lt hword, hrest, List.length_cons,
      Nat.mul_succ 32, Nat.add_comm (32 * _), Nat.pow_add, Nat.mod_mul, hlow, hhigh]

/-- The bit that each word takes from the one above completes the halving; only bit 0 of the first word is lost. -/
theorem wordsNat_shrChain (ws : List Word) : wordsNat (shrChain ws) = wordsNat ws / 2 := by
  induction ws using shrChain.induct with
  | case1 => rfl
  | case2 w =>
    have hw := w.isLt
    simp only [shrChain, wordsNat, BitVec.toNat_ofNat]
    omega
  | case3 w x ws ih =>
    have hw := w.isLt
    have hlow := word_getLsbD_0_toNat x
    rw [shrChain, wordsNat, ih, BitVec.toNat_ofNat]
    simp only [wordsNat]
    omega

end Sys2Proof.Machine
end

section
/-! SUPPORT. What SHL1 and SHR1 write, as numbers (R140, R141), their one check, and their words. -/

namespace Sys2Proof
open Machine

theorem fieldOP_formatR {op fn : Nat} (hop : op < 64) (hfn : fn < 2 ^ 12) (ua ub : UReg) (pe pd pa pb : EReg) :
    fieldOP (formatR op ua ub pe pd pa pb fn) = op := by
  rw [fieldOP, BitVec.extractLsb'_toNat, Nat.shiftRight_eq_div_pow, formatR_toNat hop hfn]
  omega

theorem isWordOf_shl1 (ua : UReg) (pd : EReg) : IsWordOf (formatR 0x05 ua 0 0 pd 0 0 0) (.shl1 ua pd) :=
  isWordOf_encode 4 rfl rfl (Laws.EncodesItsRow.shl1 ua pd) (by simp [encode, fieldUA_formatR, fieldPD_formatR])

theorem isWordOf_shr1 (ua : UReg) (pe : EReg) : IsWordOf (formatR 0x06 ua 0 pe 0 0 0 0) (.shr1 ua pe) :=
  isWordOf_encode 5 rfl rfl (Laws.EncodesItsRow.shr1 ua pe) (by simp [encode, fieldUA_formatR, fieldPE_formatR])

/-- SHL1 has no enable: PE is one of the fields that R94 marks 0 for its OP (R100). -/
theorem decode_shl1_enabled {pe : EReg} (hpe : pe ≠ 0) (ua : UReg) (pd : EReg) :
    ∃ e, decode (formatR 0x05 ua 0 pe pd 0 0 0) = .error e := by
  refine (decode_error_iff_reserved _).mpr (.inr (.inl fun hzero => hpe ?_))
  have hop : fieldOP (formatR 0x05 ua 0 pe pd 0 0 0) = 0x05 := fieldOP_formatR (by decide) (by decide) ..
  have hfield : fieldPE (formatR 0x05 ua 0 pe pd 0 0 0) = pe := fieldPE_formatR (by decide) (by decide) ..
  simp only [ZeroFieldsAreZero, hop, hfield] at hzero
  obtain ⟨-, hzeroPe, -⟩ := hzero
  exact hzeroPe

end Sys2Proof

namespace Sys2Proof.Machine

/-! ### The values and the out-bit -/

theorem doubled_toNat (a : Value) : (doubled a).toNat = a.toNat * 2 % 2 ^ 256 := BitVec.toNat_ofNat _ _

theorem halved_toNat (a : Value) : (halved a).toNat = a.toNat / 2 := by
  have ha := a.isLt
  rw [halved, BitVec.toNat_ofNat]
  omega

theorem topBit_toNat (a : Value) : (topBit a).toNat = a.toNat / 2 ^ 255 := by
  have ha := a.isLt
  rw [topBit, BitVec.getLsbD, Nat.toNat_testBit]
  omega

theorem topBit_eq_false_iff (a : Value) : topBit a = false ↔ a.toNat < 2 ^ 255 := by
  rw [← Bool.toNat_eq_zero, topBit_toNat]
  omega

/-- Bit 255 of a value is bit 31 of its word 7 (R22). -/
theorem valueWord_7_getLsbD_31 (a : Value) : (valueWord a 7).getLsbD 31 = topBit a := by
  simp [valueWord, topBit]

/-! ### The check and the frame -/

/-- The check of an instruction that reads one register passes exactly when it is written (R24). -/
theorem State.firstFault_unwritten (s : State) (r : UReg) :
    firstFault [(s.unwritten r, .uninit)] = if s.valid r = true then none else some .uninit := by
  cases h : s.valid r <;> simp [State.unwritten, h]

variable {s : State} {ua : UReg}

theorem execShl1_commits (h : s.valid ua = true) (pd : EReg) :
    execShl1 ua pd s = .next ((s.writeU ua (doubled (s.readU ua))).writeE pd (topBit (s.readU ua))).advance :=
  s.retire_commits _ (by rw [s.firstFault_unwritten, if_pos h])

theorem execShr1_commits (h : s.valid ua = true) (pe : EReg) :
    execShr1 ua pe s = .next (s.writeU ua (sel (s.enable pe) (halved (s.readU ua)) (s.readU ua))).advance :=
  s.retire_commits _ (by rw [s.firstFault_unwritten, if_pos h])

theorem State.retire_unwritten_faults (h : s.valid ua = false) (effect : State) :
    ∃ t, s.retire [(s.unwritten ua, .uninit)] effect = .next t ∧ EntersFault .uninit s.fetch s t :=
  s.retire_enters effect (by rw [s.firstFault_unwritten, h, if_neg Bool.false_ne_true])

/-! ### Two instructions in a row -/

/-- Where both instructions of a pair answer a next state, so does the pair, and it is the second one's. -/
theorem execAll_pair {i j : Instr} {t t' : State} (hi : exec i s = .next t) (hj : exec j t = .next t') :
    execAll [i, j] s = .next t' := by
  simp only [execAll, hi, hj]

end Sys2Proof.Machine
end

section
/-! SUPPORT. The statements about the shifts of 42_shift.md, settled. -/

namespace Sys2Proof.Machine

/-- Settles O58: the chains of words compute the doubled value modulo 2^256 and the halved value, and the out-bit is
the value's own top bit. -/
theorem wordShiftsComputeTheShifts : Obligations.WordShiftsComputeTheShifts := by
  refine fun a => ⟨Prod.ext (BitVec.eq_of_toNat_eq ?left) (valueWord_7_getLsbD_31 a), BitVec.eq_of_toNat_eq ?right⟩
  case left =>
    rw [shlWords, ofWords, BitVec.toNat_ofNat, wordsNat_shlChain _ _ zero_le_one, wordsNat_valueWords,
      length_valueWords, Nat.add_zero, Nat.mod_mod, doubled_toNat]
  case right =>
    rw [shrWords, ofWords, wordsNat_shrChain, wordsNat_valueWords, halved]

/-- Settles O5: the doubled value and the top bit in the state that SHL1 commits, its check, its row of the opcode
table, and its PE field, which must be 0. -/
theorem shiftLeftDoublesAndReportsTopBit : Obligations.ShiftLeftDoublesAndReportsTopBit := by
  refine ⟨fun s ua pd h => ⟨_, execShl1_commits h pd, ?value, fun hpd => ?outBit, ?e0, ?valid, ?pc,
      s.frame_writeU_writeE_advance ..⟩,
    fun s ua pd h => State.retire_unwritten_faults h _, isWordOf_shl1,
    fun ua pe pd hpe => decode_shl1_enabled hpe ua pd⟩
  case value => simpa using doubled_toNat (s.readU ua)
  case outBit => simp [hpd, topBit]
  case e0 => simp
  case valid => simp
  case pc => simp

/-- Settles O6: SHR1's one write with its frame, its check, which no enable lifts, and its row of the opcode table. -/
theorem shiftRightHalvesByEnable : Obligations.ShiftRightHalvesByEnable := by
  refine ⟨fun s ua pe h => ⟨_, execShr1_commits h pe, ?value, ?valid, rfl,
      ((Frame.refl ..).writeU List.mem_cons_self _).advance⟩,
    fun s ua pe h => State.retire_unwritten_faults h _, isWordOf_shr1⟩
  case value =>
    rw [State.readU_advance, State.readU_writeU, if_pos rfl, State.sel_enable, apply_ite BitVec.toNat, halved_toNat]
  case valid => simp

/-- Settles O18: the two shifts one after the other, each by what O5 and O6 say of it. -/
theorem shiftRoundTrips : Obligations.ShiftRoundTrips := by
  obtain ⟨shl1_writes, -⟩ := shiftLeftDoublesAndReportsTopBit
  obtain ⟨shr1_writes, -⟩ := shiftRightHalvesByEnable
  refine ⟨fun s ua pd h => ?leftRight, fun s ua pd h => ?rightLeft⟩
  case leftRight =>
    obtain ⟨t, hshl, hdoubled, hout, -, hwritten, -, -⟩ := shl1_writes s ua pd h
    obtain ⟨t', hshr, hhalved, -, -, hframe⟩ := shr1_writes t ua 0 hwritten
    rw [State.readE_zero, if_pos rfl, hdoubled] at hhalved
    refine ⟨t', execAll_pair hshl hshr, ?_, fun hpd => ?_⟩
    · have ha := (s.readU ua).isLt
      rw [hhalved]
      split <;> omega
    · rw [hframe.predicates pd List.not_mem_nil, hout hpd]
      exact topBit_eq_false_iff (s.readU ua)
  case rightLeft =>
    obtain ⟨t, hshr, hhalved, hwritten, -, -⟩ := shr1_writes s ua 0 h
    obtain ⟨t', hshl, hdoubled, hout, -, -, -, -⟩ := shl1_writes t ua pd hwritten
    rw [State.readE_zero, if_pos rfl] at hhalved
    have ha := (s.readU ua).isLt
    refine ⟨t', execAll_pair hshr hshl, ?_, fun hpd => ?_⟩
    · rw [hdoubled, hhalved]
      split <;> omega
    · refine (hout hpd).trans ((topBit_eq_false_iff (t.readU ua)).mpr ?_)
      omega

end Sys2Proof.Machine
end

section
/-! SUPPORT. The engine of R156: what each of its steps does to the two pairs, the invariant of R157 that every
iteration keeps, and the product of the remainders, which every iteration at least halves. -/

namespace Sys2Proof.Machine

/-! ### The steps of an iteration, by the case they are in (R156) -/

/-- y may be odd only where it is at least x: what step 4 establishes and step 2 needs. -/
def Engine.Ordered (e : Engine) : Prop := e.y % 2 = 1 → e.x ≤ e.y

/-- Step 4 keeps the pairs, which are in order, or exchanges them, where y is odd and below x. -/
theorem engineReorder_cases (e : Engine) :
    (engineReorder e = e ∧ e.Ordered) ∨
      (engineReorder e = { x := e.y, y := e.x, a := e.b, b := e.a } ∧ e.y % 2 = 1 ∧ e.y < e.x) := by
  by_cases h : e.y % 2 = 1 ∧ e.y < e.x
  · obtain ⟨hodd, hlt⟩ := h
    exact .inr ⟨by simp [engineReorder, sel, hodd, hlt], hodd, hlt⟩
  · have hsw : (decide (e.y % 2 = 1) && decide (e.x > e.y)) = false := by simpa using h
    refine .inl ⟨by simp [engineReorder, sel, hsw], fun hodd => ?_⟩
    exact not_lt.mp fun hlt => h ⟨hodd, hlt⟩

theorem engineReorder_ordered (e : Engine) : (engineReorder e).Ordered := by
  obtain ⟨heq, hordered⟩ | ⟨heq, -, hlt⟩ := engineReorder_cases e
  · rwa [heq]
  · rw [heq]
    exact fun _ => hlt.le

/-- Step 2 does nothing where y is even. -/
theorem engineSubtract_even (m : Int) {e : Engine} (hy : e.y % 2 = 0) (hb : 0 ≤ e.b) : engineSubtract m e = e := by
  simp [engineSubtract, sel, hy, not_lt.mpr hb]

theorem engineSubtract_odd (m : Int) {e : Engine} (hy : e.y % 2 = 1) :
    engineSubtract m e = { e with y := e.y - e.x, b := e.b - e.a + if e.b - e.a < 0 then m else 0 } := by
  simp [engineSubtract, sel, hy]

/-- Step 3 halves the cofactor modulo m: an odd one is made even by adding m. -/
theorem two_mul_engineHalve_b {m h : Int} (hh : 2 * h = m + 1) (e : Engine) :
    2 * (engineHalve h e).b = e.b + e.b % 2 * m := by
  rw [engineHalve]
  linear_combination Int.emod_add_mul_ediv e.b 2 + e.b % 2 * hh

theorem gcd_two_eq_one {n : Int} (hn : n % 2 = 1) : Int.gcd n 2 = 1 :=
  Int.isCoprime_iff_gcd_eq_one.mp (Int.isCoprime_two_right.mpr (Int.odd_iff.mpr hn))

/-! ### The invariant (R157) -/

/-- What R157 says stays true: the remainders have the gcd of the inputs, each is its cofactor times t modulo m, and
the cofactors are in [0, m). -/
structure EngineInvariant (t m : Int) (e : Engine) : Prop where
  x_odd : e.x % 2 = 1
  x_pos : 0 < e.x
  y_nonneg : 0 ≤ e.y
  gcd : Int.gcd e.x e.y = Int.gcd m t
  x_cofactor : e.x ≡ e.a * t [ZMOD m]
  y_cofactor : e.y ≡ e.b * t [ZMOD m]
  a_nonneg : 0 ≤ e.a
  a_lt : e.a < m
  b_nonneg : 0 ≤ e.b
  b_lt : e.b < m

section
variable {t m h : Int} {e : Engine}

theorem EngineInvariant.reorder (he : EngineInvariant t m e) : EngineInvariant t m (engineReorder e) := by
  obtain ⟨heq, -⟩ | ⟨heq, hodd, -⟩ := engineReorder_cases e
  · rwa [heq]
  · have hnonneg := he.y_nonneg
    have hpos : 0 < e.y := by omega
    rw [heq]
    exact ⟨hodd, hpos, he.x_pos.le, (Int.gcd_comm ..).trans he.gcd, he.y_cofactor, he.x_cofactor,
      he.b_nonneg, he.b_lt, he.a_nonneg, he.a_lt⟩

theorem EngineInvariant.subtract (he : EngineInvariant t m e) (hordered : e.Ordered) :
    EngineInvariant t m (engineSubtract m e) := by
  have ha := he.a_nonneg
  have ham := he.a_lt
  have hb := he.b_nonneg
  have hbm := he.b_lt
  rcases Int.emod_two_eq_zero_or_one e.y with heven | hodd
  · rwa [engineSubtract_even m heven hb]
  · rw [engineSubtract_odd m hodd]
    refine ⟨he.x_odd, he.x_pos, sub_nonneg.mpr (hordered hodd), ?gcd, he.x_cofactor, ?cofactor, ha, ham, ?nonneg, ?lt⟩
    case gcd => exact (Int.gcd_sub_self_right ..).trans he.gcd
    case cofactor =>
      have hdiff : e.y - e.x ≡ (e.b - e.a) * t [ZMOD m] := by
        rw [sub_mul]
        exact he.y_cofactor.sub he.x_cofactor
      refine hdiff.trans (Int.ModEq.mul_right t ?_)
      dsimp only
      split
      · exact (Int.add_modEq_right ..).symm
      · rw [add_zero]
    case nonneg | lt =>
      dsimp only
      split <;> omega

theorem engineSubtract_y_even (he : EngineInvariant t m e) : (engineSubtract m e).y % 2 = 0 := by
  have hx := he.x_odd
  rcases Int.emod_two_eq_zero_or_one e.y with heven | hodd
  · rwa [engineSubtract_even m heven he.b_nonneg]
  · rw [engineSubtract_odd m hodd]
    dsimp only
    omega

theorem EngineInvariant.halve (hm : m % 2 = 1) (hh : 2 * h = m + 1) (he : EngineInvariant t m e)
    (heven : e.y % 2 = 0) : EngineInvariant t m (engineHalve h e) := by
  have hx := he.x_odd
  have hb := he.b_nonneg
  have hbm := he.b_lt
  have hhalf : e.y = 2 * (e.y / 2) := by omega
  have hdouble := two_mul_engineHalve_b hh e
  obtain ⟨hnonneg, hlt⟩ : 0 ≤ (engineHalve h e).b ∧ (engineHalve h e).b < m := by
    rcases Int.emod_two_eq_zero_or_one e.b with hr | hr
    all_goals
      rw [hr] at hdouble
      omega
  refine ⟨hx, he.x_pos, Int.ediv_nonneg he.y_nonneg two_pos.le, ?gcd, he.x_cofactor, ?cofactor, he.a_nonneg, he.a_lt,
    hnonneg, hlt⟩
  case gcd =>
    rw [← he.gcd, hhalf, Int.gcd_mul_right_right_of_gcd_eq_one (gcd_two_eq_one hx)]
    rfl
  case cofactor =>
    have htwice : 2 * (e.y / 2) ≡ 2 * ((engineHalve h e).b * t) [ZMOD m] := by
      rw [← hhalf, ← mul_assoc, hdouble]
      exact he.y_cofactor.trans ((Int.modEq_add_mul_modulus_iff.mpr rfl).mul_right t)
    have hcancel := htwice.cancel_left_div_gcd (by omega)
    rwa [gcd_two_eq_one hm, Nat.cast_one, Int.ediv_one] at hcancel

theorem EngineInvariant.iterate (hm : m % 2 = 1) (hh : 2 * h = m + 1) (he : EngineInvariant t m e)
    (hordered : e.Ordered) : EngineInvariant t m (engineIterate m h e) :=
  ((he.subtract hordered).halve hm hh (engineSubtract_y_even he)).reorder

/-! ### Why 512 iterations suffice (R157, R158): x * y is below 2^512 and at least halves each time -/

theorem engineReorder_product (e : Engine) : (engineReorder e).x * (engineReorder e).y = e.x * e.y := by
  obtain ⟨heq, -⟩ | ⟨heq, -, -⟩ := engineReorder_cases e
  · rw [heq]
  · rw [heq, mul_comm]

theorem engineIterate_product_le (he : EngineInvariant t m e) :
    2 * ((engineIterate m h e).x * (engineIterate m h e).y) ≤ e.x * e.y := by
  have hx := he.x_pos
  have hle : (engineSubtract m e).y ≤ e.y := sub_le_self _ (mul_nonneg (Int.emod_nonneg _ two_ne_zero) hx.le)
  have hhalf : 2 * ((engineSubtract m e).y / 2) ≤ e.y := by omega
  calc 2 * ((engineIterate m h e).x * (engineIterate m h e).y)
      = 2 * (e.x * ((engineSubtract m e).y / 2)) := congrArg (2 * ·) (engineReorder_product _)
    _ = e.x * (2 * ((engineSubtract m e).y / 2)) := by ring
    _ ≤ e.x * e.y := mul_le_mul_of_nonneg_left hhalf hx.le

/-- The invariant and the halving, over any number of iterations. -/
theorem EngineInvariant.loop (hm : m % 2 = 1) (hh : 2 * h = m + 1) (n : Nat) : ∀ {e : Engine},
    EngineInvariant t m e → e.Ordered → EngineInvariant t m (engineLoop m h n e) ∧
      2 ^ n * ((engineLoop m h n e).x * (engineLoop m h n e).y) ≤ e.x * e.y := by
  induction n with
  | zero => exact fun he _ => ⟨he, (one_mul _).le⟩
  | succ n ih =>
    intro e he hordered
    obtain ⟨hrun, hproduct⟩ := ih (he.iterate hm hh hordered) (engineReorder_ordered _)
    refine ⟨hrun, ?_⟩
    calc 2 ^ (n + 1) * ((engineLoop m h (n + 1) e).x * (engineLoop m h (n + 1) e).y)
        = 2 * (2 ^ n * ((engineLoop m h n (engineIterate m h e)).x *
            (engineLoop m h n (engineIterate m h e)).y)) := by rw [engineLoop, pow_succ]; ring
      _ ≤ 2 * ((engineIterate m h e).x * (engineIterate m h e).y) := mul_le_mul_of_nonneg_left hproduct two_pos.le
      _ ≤ e.x * e.y := engineIterate_product_le he

end

/-! ### The whole run (R156) -/

section
variable {t m : Nat}

theorem engineStart_invariant (hm : m % 2 = 1) (hlt : t < m) (ht : t ≠ 0) : EngineInvariant t m (engineStart t m) := by
  apply EngineInvariant.reorder
  constructor
  case gcd => rfl
  case x_cofactor => simp [Int.ModEq]
  case y_cofactor => simp [Int.ModEq]
  all_goals
    dsimp only
    omega

/-- For valid inputs with t not 0 the run ends with y = 0, so with the gcd in x. -/
theorem engineRun_invariant (hm : m % 2 = 1) (hlt : t < m) (ht : t ≠ 0) (hm256 : m < 2 ^ 256) :
    EngineInvariant t m (engineRun t m) ∧ (engineRun t m).y = 0 := by
  obtain ⟨hrun, hproduct⟩ := (engineStart_invariant hm hlt ht).loop (by omega) (h := ((m : Int) + 1) / 2) (by omega)
    recipIters (engineReorder_ordered _)
  have hstart : (engineStart t m).x * (engineStart t m).y = (m : Int) * t := engineReorder_product _
  have hsmall : (m : Int) * t < 2 ^ recipIters * 1 := by
    rw [mul_one, show (2 : Int) ^ recipIters = 2 ^ 256 * 2 ^ 256 from (pow_add 2 256 256)]
    exact_mod_cast Nat.mul_lt_mul'' hm256 (hlt.trans hm256)
  have hproduct_lt := lt_of_mul_lt_mul_left ((hproduct.trans_eq hstart).trans_lt hsmall) (by positivity)
  have hx := hrun.x_pos
  have hy := hrun.y_nonneg
  refine ⟨hrun, hy.antisymm' (not_lt.mp fun hpos => ?_)⟩
  exact absurd (Int.mul_pos hx hpos) (not_lt.mpr (Int.lt_add_one_iff.mp hproduct_lt))

theorem engineRun_x_eq_gcd (hm : m % 2 = 1) (hlt : t < m) (ht : t ≠ 0) (hm256 : m < 2 ^ 256) :
    (engineRun t m).x = Nat.gcd t m := by
  obtain ⟨hrun, hy⟩ := engineRun_invariant hm hlt ht hm256
  have hgcd := hrun.gcd
  rw [hy, Int.gcd_zero_right, Int.gcd_natCast_natCast, Nat.gcd_comm] at hgcd
  have hx := hrun.x_pos
  omega

/-- The final normalisation subtracts nothing: the cofactor is already in [0, m) (R159). -/
theorem engineResult_eq_a (h0 : 0 ≤ (engineRun t m).a) (hlt : (engineRun t m).a < m) :
    (engineResult t m : Int) = (engineRun t m).a := by
  generalize hrun : (engineRun t m).a = a at h0 hlt ⊢
  simp [engineResult, hrun, sel, not_le.mpr hlt, h0]

/-- For valid inputs the cofactor of the gcd, which is 1, is the inverse. -/
theorem engineResult_inverse (hm : m % 2 = 1) (hlt : t < m) (ht : t ≠ 0) (hm256 : m < 2 ^ 256)
    (hgcd : Nat.gcd t m = 1) : engineResult t m < m ∧ (t * engineResult t m) % m = 1 := by
  obtain ⟨hrun, -⟩ := engineRun_invariant hm hlt ht hm256
  have hresult := engineResult_eq_a hrun.a_nonneg hrun.a_lt
  have hbound := hrun.a_lt
  refine ⟨by omega, ?_⟩
  have hcofactor := hrun.x_cofactor
  rw [engineRun_x_eq_gcd hm hlt ht hm256, hgcd, ← hresult, mul_comm] at hcofactor
  have hmod : 1 ≡ t * engineResult t m [MOD m] := Int.natCast_modEq_iff.mp (by exact_mod_cast hcofactor)
  rw [← hmod, Nat.mod_eq_of_lt (by omega)]

end

/-! ### The receiver 0 (R151, R157) -/

/-- Once y is 0, a no longer changes. -/
theorem engineLoop_a_of_y_eq_zero (m h : Int) (n : Nat) : ∀ {e : Engine}, e.y = 0 → (engineLoop m h n e).a = e.a := by
  induction n with
  | zero => exact fun _ => rfl
  | succ n ih =>
    intro e hy
    have hiterate : (engineIterate m h e).y = 0 ∧ (engineIterate m h e).a = e.a := by
      simp [engineIterate, engineReorder, engineHalve, engineSubtract, sel, hy]
    obtain ⟨hy', ha'⟩ := hiterate
    rw [engineLoop, ih hy', ha']

/-- For t = 0 no swap happens, and the cofactor of x stays 0. -/
theorem engineResult_zero {m : Nat} (hm : 0 < m) : engineResult 0 m = 0 := by
  have hstart : engineStart 0 m = { x := m, y := 0, a := 0, b := 1 } := by simp [engineStart, engineReorder, sel]
  have hrun : (engineRun 0 m).a = 0 := by rw [engineRun, hstart, engineLoop_a_of_y_eq_zero _ _ _ rfl]
  exact_mod_cast (engineResult_eq_a hrun.ge (by omega)).trans hrun

/-! ### The preconditions (R150, R152) -/

theorem recipOk_iff (t m : Nat) :
    recipOk t m = true ↔ m % 2 = 1 ∧ t < m ∧ (t = 0 ∨ Nat.gcd t m = 1) := by
  simp [recipOk, and_assoc]

theorem engineOk_iff (t m : Nat) :
    engineOk t m = true ↔ m % 2 = 1 ∧ t < m ∧ (t = 0 ∨ (engineRun t m).x = 1) := by
  simp [engineOk, and_assoc]

/-- The engine's own test agrees with the preconditions: where the two can differ, x is the gcd. -/
theorem engineOk_eq_recipOk {t m : Nat} (hm256 : m < 2 ^ 256) : engineOk t m = recipOk t m := by
  rw [Bool.eq_iff_iff, engineOk_iff, recipOk_iff]
  refine and_congr_right fun hm => and_congr_right fun hlt => or_congr_right' fun ht => ?_
  rw [engineRun_x_eq_gcd hm hlt ht hm256, Nat.cast_eq_one]

/-- What RECIP needs of the engine (R150): the inverse below m, and 0 for the receiver 0. -/
theorem engineResult_spec {t m : Nat} (hm256 : m < 2 ^ 256) (hok : recipOk t m = true) :
    engineResult t m < m ∧ (t = 0 → engineResult t m = 0) ∧ (t ≠ 0 → (t * engineResult t m) % m = 1) := by
  obtain ⟨hm, hlt, hgcd⟩ := (recipOk_iff t m).mp hok
  by_cases ht : t = 0
  · subst ht
    have hresult := engineResult_zero hlt
    exact ⟨by rwa [hresult], fun _ => hresult, fun hne => absurd rfl hne⟩
  · obtain ⟨hbound, hinverse⟩ := engineResult_inverse hm hlt ht hm256 (hgcd.resolve_left ht)
    exact ⟨hbound, fun heq => absurd heq ht, fun _ => hinverse⟩

end Sys2Proof.Machine
end

section
/-! SUPPORT. RECIP on either side of its checks (R150, R153), and its word. -/

namespace Sys2Proof
open Machine

theorem isWordOf_recip (ua ub : UReg) : IsWordOf (formatR 0x07 ua ub 0 0 0 0 0) (.recip ua ub) :=
  isWordOf_encode 6 rfl rfl (Laws.EncodesItsRow.recip ua ub) (by simp [encode, fieldUA_formatR, fieldUB_formatR])

end Sys2Proof

namespace Sys2Proof.Machine

/-- Checks in two lists: the second list's causes count where none of the first applies (R213). -/
theorem firstFault_append (l l' : List (Bool × FaultCause)) :
    firstFault (l ++ l') = (firstFault l).or (firstFault l') := by
  induction l with
  | nil => rfl
  | cons check l ih =>
    obtain ⟨applies, cause⟩ := check
    cases applies <;> simp [ih]

/-- The precondition of RECIP UA, UB on the two registers' values (R152). -/
abbrev State.recipValid (s : State) (ua ub : UReg) : Bool := recipOk (s.readU ua).toNat (s.readU ub).toNat

/-- The checks of RECIP: UNINIT comes before RECIP_PRECOND (R213). -/
theorem State.firstFault_recipChecks (s : State) (ua ub : UReg) :
    firstFault (s.pairChecks ua ub ++ [(s.cfg.recipCheck && !s.recipValid ua ub, .recipPrecond)]) =
      if s.valid ua = true ∧ s.valid ub = true then
        if s.cfg.recipCheck && !s.recipValid ua ub then some .recipPrecond else none
      else some .uninit := by
  rw [firstFault_append, s.firstFault_pairChecks]
  split <;> rfl

section
variable {s : State} {ua ub : UReg}

theorem execRecip_inverts (ha : s.valid ua = true) (hb : s.valid ub = true) (hok : s.recipValid ua ub = true) :
    execRecip ua ub s =
      .next (s.writeU ua (BitVec.ofNat 256 (engineResult (s.readU ua).toNat (s.readU ub).toNat))).advance := by
  refine (s.retire_commits _ ?_).trans ?_
  · rw [s.firstFault_recipChecks, if_pos ⟨ha, hb⟩]
    simp [hok]
  · rw [recipEffect, if_pos hok]

theorem execRecip_draws (ha : s.valid ua = true) (hb : s.valid ub = true) (hok : s.recipValid ua ub = false)
    (hcheck : s.cfg.recipCheck = false) : execRecip ua ub s = .next (s.writeU ua s.drawn).countDraw.advance := by
  refine (s.retire_commits _ ?_).trans ?_
  · rw [s.firstFault_recipChecks, if_pos ⟨ha, hb⟩]
    simp [hcheck]
  · rw [recipEffect, if_neg (by simp [hok])]

theorem execRecip_precond (ha : s.valid ua = true) (hb : s.valid ub = true) (hok : s.recipValid ua ub = false)
    (hcheck : s.cfg.recipCheck = true) :
    ∃ t, execRecip ua ub s = .next t ∧ EntersFault .recipPrecond s.fetch s t :=
  s.retire_enters _ (by
    rw [s.firstFault_recipChecks, if_pos ⟨ha, hb⟩, hok, hcheck, Bool.not_false, Bool.and_true, if_pos rfl])

theorem execRecip_uninit (h : s.valid ua = false ∨ s.valid ub = false) :
    ∃ t, execRecip ua ub s = .next t ∧ EntersFault .uninit s.fetch s t :=
  s.retire_enters _ (by rw [s.firstFault_recipChecks, if_neg (not_and_or.mpr (by simpa using h))])

end

end Sys2Proof.Machine
end

section
/-! SUPPORT. The statements about the modular inverse of 43_reciprocal.md, settled. -/

namespace Sys2Proof.Machine

/-- Settles O60: R157's invariant through the 512 iterations, each of which halves the product of the remainders. -/
theorem engineScheduleIsCorrect : Obligations.EngineScheduleIsCorrect :=
  fun _ _ _ hm256 => ⟨engineOk_eq_recipOk hm256, engineResult_spec hm256⟩

/-- Settles O7: the engine's result is the value that RECIP writes where its precondition holds; where it fails,
RECIP_CHECK decides between the fault and a drawn value. -/
theorem recipComputesModularInverse : Obligations.RecipComputesModularInverse := by
  refine ⟨fun s ua ub ha hb hodd hlt hgcd => ?inverse, fun s ua ub ha hb hpre => ?violated,
    fun s ua ha hcheck => execRecip_precond ha ha ?aliased hcheck, fun s ua ub h => execRecip_uninit h, isWordOf_recip⟩
  case inverse =>
    have hok : s.recipValid ua ub = true := (recipOk_iff _ _).mpr ⟨hodd, hlt, hgcd⟩
    have hm256 := (s.readU ub).isLt
    obtain ⟨hbound, hzero, hinverse⟩ := engineResult_spec hm256 hok
    refine ⟨_, execRecip_inverts ha hb hok, ?_⟩
    rw [State.readU_advance, State.readU_writeU, if_pos rfl, BitVec.toNat_ofNat, Nat.mod_eq_of_lt (hbound.trans hm256)]
    exact ⟨hzero, hinverse, hbound, by simp, rfl, ((Frame.refl ..).writeU List.mem_cons_self _).advance⟩
  case violated =>
    have hnot : s.recipValid ua ub = false := Bool.eq_false_iff.mpr (mt (recipOk_iff _ _).mp hpre)
    cases hcheck : s.cfg.recipCheck with
    | true =>
      obtain ⟨t, hexec, hfault⟩ := execRecip_precond ha hb hnot hcheck
      exact ⟨t, hexec, fun _ => hfault, nofun⟩
    | false =>
      have hframe : Frame [ua] [] 0 0 s (s.writeU ua s.drawn) := (Frame.refl ..).writeU List.mem_cons_self _
      refine ⟨_, execRecip_draws ha hb hnot hcheck, nofun, fun _ => ?_⟩
      exact ⟨by simp, rfl, hframe.values, hframe.predicates, hframe.dmem, hframe.imem, ⟨rfl, rfl, rfl, rfl⟩,
        hframe.hostSide.countDraw.advance⟩
  case aliased =>
    refine Bool.eq_false_iff.mpr (mt (recipOk_iff _ _).mp ?_)
    rintro ⟨-, hlt, -⟩
    exact lt_irrefl _ hlt

/-- Settles O8: for the receiver 0 an odd modulus is all that O7's precondition asks. -/
theorem recipOfZeroIsZero : Obligations.RecipOfZeroIsZero := by
  obtain ⟨recip_inverts, -⟩ := recipComputesModularInverse
  intro s ua ub ha hb hzero hodd
  have ht : (s.readU ua).toNat = 0 := by rw [hzero]; rfl
  obtain ⟨t, hexec, hresult, -, -, hwritten, hpc, hframe⟩ := recip_inverts s ua ub ha hb hodd (by omega) (.inl ht)
  exact ⟨t, hexec, BitVec.eq_of_toNat_eq (hresult ht), hwritten, hpc, hframe⟩

end Sys2Proof.Machine
end

section
/-! SUPPORT. The word-level comparisons of R176 and R177: the accumulator sees every word pair that differs, and the
running flags are the order of the numbers that the words read so far make up. -/

namespace Sys2Proof.Machine

/-! ### The accumulator (R176) -/

/-- The accumulator only gains bits: it ends 0 exactly if it starts 0 and every word is 0. -/
theorem foldl_or_eq_zero_iff (ws : List Word) : ∀ acc : Word,
    ws.foldl (fun acc x => acc ||| x) acc = 0 ↔ acc = 0 ∧ ∀ w ∈ ws, w = 0 := by
  induction ws with
  | nil => simp
  | cons w ws ih =>
    intro acc
    rw [List.foldl_cons, ih, BitVec.ofNat_eq_ofNat, BitVec.or_eq_zero_iff, List.forall_mem_cons, and_assoc]

theorem valueWords_inj {a b : Value} : valueWords a = valueWords b ↔ a = b := by
  refine ⟨fun h => ?_, fun h => h ▸ rfl⟩
  rw [← ofWords_valueWords a, h, ofWords_valueWords]

theorem eqAccumulator_eq_zero_iff (a b : Value) : eqAccumulator a b = 0 ↔ a = b := by
  have hwords : eqAccumulator a b = 0 ↔ ∀ j ∈ List.range 8, valueWord a j = valueWord b j := by
    rw [eqAccumulator, foldl_or_eq_zero_iff, valueWords, valueWords, List.zipWith_map, List.zipWith_self,
      List.forall_mem_map, BitVec.ofNat_eq_ofNat]
    simp only [BitVec.xor_eq_zero_iff, true_and]
  rw [hwords, ← valueWords_inj, valueWords, valueWords, List.map_inj_left]

/-! ### The running flags (R177) -/

/-- The order of two numbers is the order of their upper parts, and that of their lowest words where those are equal:
one step of R177 turns the flags of the upper words into the flags with one more word. -/
theorem orderStep_decide (x y : Nat) (p : Word × Word) :
    orderStep (decide (x < y), decide (x = y)) p =
      (decide (p.1.toNat + 2 ^ 32 * x < p.2.toNat + 2 ^ 32 * y),
       decide (p.1.toNat + 2 ^ 32 * x = p.2.toNat + 2 ^ 32 * y)) := by
  have h1 := p.1.isLt
  have h2 := p.2.isLt
  simp only [orderStep, ← Bool.decide_and, ← Bool.decide_or, BitVec.toNat_eq]
  refine Prod.ext (decide_eq_decide.mpr ?lt) (decide_eq_decide.mpr ?eq)
  case lt => omega
  case eq => omega

/-- Over any number of word pairs, from the most significant down, the flags are the order and the equality of the two
numbers. -/
theorem foldl_orderStep_reverse (ps : List (Word × Word)) :
    ps.reverse.foldl orderStep (false, true) =
      (decide (wordsNat (ps.map Prod.fst) < wordsNat (ps.map Prod.snd)),
       decide (wordsNat (ps.map Prod.fst) = wordsNat (ps.map Prod.snd))) := by
  induction ps with
  | nil => rfl
  | cons p ps ih =>
    rw [List.reverse_cons, List.foldl_append, ih, List.foldl_cons, List.foldl_nil, orderStep_decide]
    rfl

theorem orderFlags_eq (a b : Value) :
    orderFlags a b = (decide (a.toNat < b.toNat), decide (a.toNat = b.toNat)) := by
  rw [orderFlags, foldl_orderStep_reverse, map_fst_zip_valueWords, map_snd_zip_valueWords, wordsNat_valueWords,
    wordsNat_valueWords]

end Sys2Proof.Machine
end

section
/-! SUPPORT. What the six CMP instructions share: the word with OP 0x08, the two UNINIT checks and the one write to a
predicate register (44_compare.md). -/

namespace Sys2Proof
open Machine

/-- The rows of the six CMP instructions follow one another in the order of FN, and read UA, UB and PD. -/
theorem isWordOf_compare {mk : UReg → UReg → EReg → Instr} {fn : Nat} {name : String} {pattern mask : Word}
    (hfn : fn < 6)
    (hrow : opcodeTable[7 + fn]? = some ⟨name, pattern, mask, fun w => mk (fieldUA w) (fieldUB w) (fieldPD w)⟩)
    (hencode : ∀ ua ub pd, encode (mk ua ub pd) = formatR 0x08 ua ub 0 pd 0 0 fn)
    (hbits : ∀ ua ub pd, (mk ua ub pd).rowBits = (pattern, mask))
    (hlaw : ∀ ua ub pd, Laws.EncodesItsRow.Statement (mk ua ub pd)) (ua ub : UReg) (pd : EReg) :
    IsWordOf (formatR 0x08 ua ub 0 pd 0 0 fn) (mk ua ub pd) := by
  have hfn12 : fn < 2 ^ 12 := by omega
  have hop : 0x08 < 64 := by decide
  rw [← hencode]
  refine isWordOf_encode (7 + fn) hrow (hbits ..) (hlaw ..) ?_
  simp only [hencode, fieldUA_formatR hop hfn12, fieldUB_formatR hop hfn12, fieldPD_formatR hop hfn12]

end Sys2Proof

namespace Sys2Proof.Machine

/-! ### The flags as relations of the magnitudes (R170 to R175) -/

section
variable (a b : Value)

theorem flagEq_iff : flagEq a b = true ↔ a.toNat = b.toNat := decide_eq_true_iff.trans BitVec.toNat_eq
theorem flagNe_iff : flagNe a b = true ↔ a.toNat ≠ b.toNat := by
  rw [flagNe, Bool.not_eq_true', decide_eq_false_iff_not, BitVec.toNat_eq]
theorem flagLt_iff : flagLt a b = true ↔ a.toNat < b.toNat := decide_eq_true_iff
theorem flagLe_iff : flagLe a b = true ↔ a.toNat ≤ b.toNat := decide_eq_true_iff
theorem flagGt_iff : flagGt a b = true ↔ a.toNat > b.toNat := decide_eq_true_iff
theorem flagGe_iff : flagGe a b = true ↔ a.toNat ≥ b.toNat := decide_eq_true_iff

end

/-! ### The template of the six -/

section
variable {flag : Value → Value → Bool} {s : State} {ua ub : UReg}

theorem compareWith_commits (ha : s.valid ua = true) (hb : s.valid ub = true) (pd : EReg) :
    compareWith flag ua ub pd s = .next (s.writeE pd (flag (s.readU ua) (s.readU ub))).advance :=
  s.retire_commits _ (by rw [s.firstFault_pairChecks, if_pos ⟨ha, hb⟩])

theorem compareWith_faults (h : s.valid ua = false ∨ s.valid ub = false) (pd : EReg) :
    ∃ t, compareWith flag ua ub pd s = .next t ∧ EntersFault .uninit s.fetch s t :=
  s.retire_enters _ (by rw [s.firstFault_pairChecks, if_neg (not_and_or.mpr (by simpa using h))])

end

/-- An instruction that is the template with a flag obeys the rule of the relation that the flag decides. -/
theorem compareRule_of_flag {mk : UReg → UReg → EReg → Instr} {fn : Nat} {flag : Value → Value → Bool}
    {rel : Nat → Nat → Prop} (hexec : ∀ ua ub pd s, exec (mk ua ub pd) s = compareWith flag ua ub pd s)
    (hflag : ∀ a b, flag a b = true ↔ rel a.toNat b.toNat)
    (hword : ∀ ua ub pd, IsWordOf (formatR 0x08 ua ub 0 pd 0 0 fn) (mk ua ub pd)) : CompareRule mk fn rel := by
  refine ⟨fun s ua ub pd ha hb => ?written, fun s ua ub pd h => ?unwritten, hword⟩
  case written =>
    refine ⟨_, (hexec ..).trans (compareWith_commits ha hb pd), fun hpd => ?_, rfl, by simp,
      ((Frame.refl ..).writeE List.mem_cons_self _).advance⟩
    rw [State.readE_advance, State.readE_writeE, if_neg hpd, if_pos rfl]
    exact hflag ..
  case unwritten =>
    rw [hexec]
    exact compareWith_faults h pd

end Sys2Proof.Machine
end

section
/-! SUPPORT. The statements about the comparisons of 44_compare.md, settled. -/

namespace Sys2Proof.Machine

/-- Settles O59: the accumulator is 0 exactly for equal values, the flags are the order and the equality of the
magnitudes, and the four ordered relations follow from these two. -/
theorem wordComparesDecideTheOrder : Obligations.WordComparesDecideTheOrder := by
  intro a b
  rw [orderFlags_eq]
  simp only [ne_eq, eqAccumulator_eq_zero_iff, ← decide_not, ← Bool.decide_or, ← Bool.decide_and]
  refine ⟨rfl, decide_not.symm, rfl, decide_eq_decide.mpr ?le, decide_eq_decide.mpr ?gt, decide_eq_decide.mpr ?ge⟩
  case le => exact Nat.le_iff_lt_or_eq
  case gt => omega
  case ge => exact Nat.not_lt.symm

/-- Settles O9: each CMP is the template with its own flag, and its word is its own row of the opcode table. -/
theorem comparesWriteUnsignedRelation : Obligations.ComparesWriteUnsignedRelation :=
  ⟨compareRule_of_flag (fun _ _ _ _ => rfl) flagEq_iff
      (isWordOf_compare (by decide) rfl (fun _ _ _ => rfl) (fun _ _ _ => rfl) Laws.EncodesItsRow.cmpEq),
    compareRule_of_flag (fun _ _ _ _ => rfl) flagNe_iff
      (isWordOf_compare (by decide) rfl (fun _ _ _ => rfl) (fun _ _ _ => rfl) Laws.EncodesItsRow.cmpNe),
    compareRule_of_flag (fun _ _ _ _ => rfl) flagLt_iff
      (isWordOf_compare (by decide) rfl (fun _ _ _ => rfl) (fun _ _ _ => rfl) Laws.EncodesItsRow.cmpLt),
    compareRule_of_flag (fun _ _ _ _ => rfl) flagLe_iff
      (isWordOf_compare (by decide) rfl (fun _ _ _ => rfl) (fun _ _ _ => rfl) Laws.EncodesItsRow.cmpLe),
    compareRule_of_flag (fun _ _ _ _ => rfl) flagGt_iff
      (isWordOf_compare (by decide) rfl (fun _ _ _ => rfl) (fun _ _ _ => rfl) Laws.EncodesItsRow.cmpGt),
    compareRule_of_flag (fun _ _ _ _ => rfl) flagGe_iff
      (isWordOf_compare (by decide) rfl (fun _ _ _ => rfl) (fun _ _ _ => rfl) Laws.EncodesItsRow.cmpGe)⟩

end Sys2Proof.Machine
end

section
/-! SUPPORT. PAR, and PAND, POR and PXOR as one family: what each commits, its checks and its word (R180 to R183). -/

namespace Sys2Proof
open Machine

theorem fieldPA_formatR {op fn : Nat} (hop : op < 64) (hfn : fn < 2 ^ 12) (ua ub : UReg) (pe pd pa pb : EReg) :
    fieldPA (formatR op ua ub pe pd pa pb fn) = pa := by
  refine (registerField_eq_iff (n := 2) _ pa).mpr ?_
  rw [formatR_toNat hop hfn]
  omega

theorem fieldPB_formatR {op fn : Nat} (hop : op < 64) (hfn : fn < 2 ^ 12) (ua ub : UReg) (pe pd pa pb : EReg) :
    fieldPB (formatR op ua ub pe pd pa pb fn) = pb := by
  refine (registerField_eq_iff (n := 2) _ pb).mpr ?_
  rw [formatR_toNat hop hfn]
  omega

theorem isWordOf_par (ua : UReg) (pd : EReg) : IsWordOf (formatR 0x09 ua 0 0 pd 0 0 0) (.par ua pd) :=
  isWordOf_encode 13 rfl rfl (Laws.EncodesItsRow.par ua pd) (by simp [encode, fieldUA_formatR, fieldPD_formatR])

end Sys2Proof

namespace Sys2Proof.Machine

/-- The effect of an instruction that writes one predicate register. -/
theorem State.frame_writeE_advance (s : State) (e : EReg) (b : Bool) : Frame [] [e] 0 0 s (s.writeE e b).advance :=
  ((Frame.refl ..).writeE List.mem_cons_self b).advance

/-! ### PAR -/

theorem parityBit_toNat (a : Value) : (parityBit a).toNat = a.toNat % 2 := by
  obtain h | h := Nat.mod_two_eq_zero_or_one a.toNat <;> simp [parityBit, h]

theorem parityBit_iff (a : Value) : parityBit a = true ↔ a.toNat % 2 = 1 := decide_eq_true_iff

theorem exec_par_commits {s : State} {ua : UReg} (h : s.valid ua = true) (pd : EReg) :
    exec (.par ua pd) s = .next (s.writeE pd (parityBit (s.readU ua))).advance :=
  s.retire_commits _ (by rw [s.firstFault_unwritten, if_pos h])

/-! ### PAND, POR and PXOR -/

/-- The three logic instructions by their operation. -/
inductive LogicOp where
  | and
  | or
  | xor

namespace LogicOp

def instr : LogicOp → EReg → EReg → EReg → Instr
  | and => .pand
  | or => .por
  | xor => .pxor

def apply : LogicOp → Bool → Bool → Bool
  | and => Bool.and
  | or => Bool.or
  | xor => Bool.xor

/-- FN (R96). -/
def fn : LogicOp → Nat
  | and => 0
  | or => 1
  | xor => 2

theorem isLogic_instr (o : LogicOp) (pd pa pb : EReg) : IsLogic (o.instr pd pa pb) := by
  cases o <;> trivial

/-- No check stands before the write, and both sources are read in the state before it. -/
theorem exec_instr (o : LogicOp) (pd pa pb : EReg) (s : State) :
    exec (o.instr pd pa pb) s = .next (s.writeE pd (o.apply (s.readE pa) (s.readE pb))).advance := by
  cases o <;> rfl

theorem encode_instr (o : LogicOp) (pd pa pb : EReg) :
    encode (o.instr pd pa pb) = formatR 0x0A 0 0 0 pd pa pb o.fn := by
  cases o <;> rfl

/-- The instruction that each row of the three reads from a word: PD, PA and PB (R94). -/
def ofWord (o : LogicOp) (w : Word) : Instr := o.instr (fieldPD w) (fieldPA w) (fieldPB w)

theorem ofWord_encode (o : LogicOp) (pd pa pb : EReg) : o.ofWord (encode (o.instr pd pa pb)) = o.instr pd pa pb := by
  have hop : 0x0A < 64 := by decide
  have hfn : o.fn < 2 ^ 12 := by cases o <;> decide
  rw [encode_instr, ofWord, fieldPD_formatR hop hfn, fieldPA_formatR hop hfn, fieldPB_formatR hop hfn]

theorem isWordOf_instr (o : LogicOp) (pd pa pb : EReg) :
    IsWordOf (formatR 0x0A 0 0 0 pd pa pb o.fn) (o.instr pd pa pb) := by
  have hbuild := o.ofWord_encode pd pa pb
  rw [← encode_instr]
  cases o with
  | and => exact isWordOf_encode 14 rfl rfl (Laws.EncodesItsRow.pand pd pa pb) hbuild
  | or => exact isWordOf_encode 15 rfl rfl (Laws.EncodesItsRow.por pd pa pb) hbuild
  | xor => exact isWordOf_encode 16 rfl rfl (Laws.EncodesItsRow.pxor pd pa pb) hbuild

/-- PAND, POR and PXOR obey one rule, each with its own FN and operation. -/
theorem logicRule (o : LogicOp) : LogicRule o.instr o.fn o.apply := by
  refine ⟨fun s pd pa pb => ⟨_, o.exec_instr pd pa pb s, fun hpd => ?result, rfl, ?pc, s.frame_writeE_advance ..⟩,
    o.isWordOf_instr⟩
  case result => rw [State.readE_advance, State.readE_writeE, if_neg hpd, if_pos rfl]
  case pc => simp

end LogicOp

end Sys2Proof.Machine
end

section
/-! SUPPORT. Two logic instructions in a row, the first with the destination as scratch, and the pair that computes
each two-input Boolean function (R184). -/

namespace Sys2Proof.Machine

/-- Where the first instruction answers a next state, the list goes on from it. -/
theorem execAll_cons {i : Instr} {s t : State} (h : exec i s = .next t) (is : List Instr) :
    execAll (i :: is) s = execAll is t := by
  simp only [execAll, h]

/-- A source of a logic instruction: E0, which reads 1, or one of the two inputs. -/
inductive LogicSource where
  | one
  | inA
  | inB

namespace LogicSource

/-- The register that the source names for inputs E[PA] and E[PB]. -/
def reg (pa pb : EReg) : LogicSource → EReg
  | one => 0
  | inA => pa
  | inB => pb

/-- What the source reads for the inputs `a` and `b`. -/
def value (a b : Bool) : LogicSource → Bool
  | one => true
  | inA => a
  | inB => b

theorem readE_reg (x : LogicSource) (pa pb : EReg) (s : State) :
    s.readE (x.reg pa pb) = x.value (s.readE pa) (s.readE pb) := by
  cases x <;> rfl

theorem ne_reg {pd pa pb : EReg} (h0 : pd ≠ 0) (ha : pd ≠ pa) (hb : pd ≠ pb) (x : LogicSource) : pd ≠ x.reg pa pb := by
  cases x <;> assumption

end LogicSource

/-- `first` of the sources `x` and `y` into the destination, then `second` of the destination and the source `z`. -/
structure LogicPair where
  first : LogicOp
  x : LogicSource
  y : LogicSource
  second : LogicOp
  z : LogicSource

namespace LogicPair

/-- The pair with destination `pd` and inputs E[PA] and E[PB]. -/
def instrs (p : LogicPair) (pd pa pb : EReg) : List Instr :=
  [p.first.instr pd (p.x.reg pa pb) (p.y.reg pa pb), p.second.instr pd pd (p.z.reg pa pb)]

/-- What the pair leaves in the destination for the inputs `a` and `b`. -/
def value (p : LogicPair) (a b : Bool) : Bool :=
  p.second.apply (p.first.apply (p.x.value a b) (p.y.value a b)) (p.z.value a b)

theorem isLogic_of_mem_instrs (p : LogicPair) (pd pa pb : EReg) : ∀ i ∈ p.instrs pd pa pb, IsLogic i := by
  simp [instrs, LogicOp.isLogic_instr]

/-- The second instruction finds the first one's result in the destination and its other source as it was. -/
theorem execAll_instrs (p : LogicPair) {pd pa pb : EReg} (h0 : pd ≠ 0) (ha : pd ≠ pa) (hb : pd ≠ pb) (s : State) :
    ∃ t, execAll (p.instrs pd pa pb) s = .next t ∧ t.readE pd = p.value (s.readE pa) (s.readE pb) := by
  have hz : pd ≠ p.z.reg pa pb := p.z.ne_reg h0 ha hb
  have hkept (b : Bool) : (s.writeE pd b).readE (p.z.reg pa pb) = s.readE (p.z.reg pa pb) :=
    s.writeE_keeps pd b _ (by simpa using hz.symm)
  refine ⟨_, execAll_pair (p.first.exec_instr ..) (p.second.exec_instr ..), ?_⟩
  simp only [State.readE_advance, hkept]
  simp [h0, LogicSource.readE_reg, value]

/-- The pair for each truth table, given as the function's values at (1,1), (1,0), (0,1) and (0,0). A pair that ends
in AND with 1 leaves its first result as it is, and one that ends in XOR with 1 negates it. -/
def ofTable : Bool → Bool → Bool → Bool → LogicPair
  | false, false, false, false => ⟨.xor, .one, .one, .and, .one⟩
  | true,  true,  true,  true  => ⟨.and, .one, .one, .and, .one⟩
  | true,  true,  false, false => ⟨.and, .inA, .inA, .and, .one⟩
  | false, false, true,  true  => ⟨.and, .inA, .inA, .xor, .one⟩
  | true,  false, true,  false => ⟨.and, .inB, .inB, .and, .one⟩
  | false, true,  false, true  => ⟨.and, .inB, .inB, .xor, .one⟩
  | true,  false, false, false => ⟨.and, .inA, .inB, .and, .one⟩
  | false, true,  true,  true  => ⟨.and, .inA, .inB, .xor, .one⟩
  | true,  true,  true,  false => ⟨.or,  .inA, .inB, .and, .one⟩
  | false, false, false, true  => ⟨.or,  .inA, .inB, .xor, .one⟩
  | false, true,  true,  false => ⟨.xor, .inA, .inB, .and, .one⟩
  | true,  false, false, true  => ⟨.xor, .inA, .inB, .xor, .one⟩
  | false, true,  false, false => ⟨.xor, .inB, .one, .and, .inA⟩
  | true,  true,  false, true  => ⟨.xor, .inB, .one, .or,  .inA⟩
  | false, false, true,  false => ⟨.xor, .inA, .one, .and, .inB⟩
  | true,  false, true,  true  => ⟨.xor, .inA, .one, .or,  .inB⟩

theorem value_ofTable : ∀ tt tf ft ff a b : Bool,
    (ofTable tt tf ft ff).value a b = if a then if b then tt else tf else if b then ft else ff := by
  decide

/-- The pair that computes `f`. -/
def computing (f : Bool → Bool → Bool) : LogicPair :=
  ofTable (f true true) (f true false) (f false true) (f false false)

theorem value_computing (f : Bool → Bool → Bool) (a b : Bool) : (computing f).value a b = f a b := by
  rw [computing, value_ofTable]
  cases a <;> cases b <;> rfl

end LogicPair

end Sys2Proof.Machine
end

section
/-! SUPPORT. The statements about the predicate instructions of 45_predicate.md, settled. -/

namespace Sys2Proof.Machine

/-- Settles O10: the one write of PAR and its frame, its check, and its row of the opcode table. -/
theorem parityWritesBitZero : Obligations.ParityWritesBitZero := by
  refine ⟨fun s ua pd h => ⟨_, exec_par_commits h pd, fun hpd => ?parity, rfl, ?pc, s.frame_writeE_advance ..⟩,
    fun s ua pd h => State.retire_unwritten_faults h _, isWordOf_par⟩
  case parity =>
    rw [State.readE_advance, State.readE_writeE, if_neg hpd, if_pos rfl]
    exact parityBit_toNat _
  case pc => simp

/-- Settles O11: the rule of the family at each of its three operations. -/
theorem predicateLogicWritesResult : Obligations.PredicateLogicWritesResult :=
  ⟨LogicOp.and.logicRule, LogicOp.or.logicRule, LogicOp.xor.logicRule⟩

/-- Settles O12: the pair of the function's truth table, and the two programs of R184 run state by state. -/
theorem twoPredicateInstructionsSuffice : Obligations.TwoPredicateInstructionsSuffice := by
  refine ⟨fun f pd pa pb h0 ha hb => ?function, fun s y d hd hy => ?yEven, fun s x y d e hd he hne hx hy => ?doswap⟩
  case function =>
    let p := LogicPair.computing f
    refine ⟨p.instrs pd pa pb, le_rfl, p.isLogic_of_mem_instrs pd pa pb, fun s => ?_⟩
    rw [← LogicPair.value_computing f]
    exact p.execAll_instrs h0 ha hb s
  case yEven =>
    refine ⟨_, execAll_pair (exec_par_commits hy d) (LogicOp.xor.exec_instr d d 0 _), ?_⟩
    simp [hd, LogicOp.apply, parityBit]
  case doswap =>
    have hpar := exec_par_commits hy d
    have hcmp := compareWith_commits (flag := flagGt) (s := (s.writeE d (parityBit (s.readU y))).advance)
      (by simpa using hx) (by simpa using hy) e
    refine ⟨_, (execAll_cons hpar _).trans (execAll_pair hcmp (LogicOp.and.exec_instr d d e _)), ?_⟩
    simp [hd, he, hne.symm, LogicOp.apply, parityBit_iff, flagGt_iff]

end Sys2Proof.Machine
end

section
/-! SUPPORT. The word of format M as a number (R92), and the words of LDC.ZERO, LDC.ONE, LDBE and STBE. -/

namespace Sys2Proof
open Machine

/-! ### The fields of format M -/

/-- The fields of format M do not overlap: its word is the sum of the fields, each at its weight. -/
theorem formatM_toNat {op slot : Nat} (hop : op < 64) (hslot : slot < 65536) (ua : UReg) :
    (formatM op ua slot).toNat = op * 2 ^ 26 + ua.val * 2 ^ 23 + slot := by
  have hbits : (formatM op ua slot).toNat = op <<< 26 ||| (ua.val <<< 23 ||| slot) := by
    simp only [formatM, BitVec.toNat_or, Nat.or_assoc]
    rw [ofNat_shiftLeft_toNat, ofNat_shiftLeft_toNat, BitVec.toNat_setWidth, BitVec.toNat_ofNat, Nat.mod_mod_of_dvd',
      Nat.mod_eq_of_lt]
    all_goals omega
  rw [hbits, ← Nat.shiftLeft_add_eq_or_of_lt (i := 23), ← Nat.shiftLeft_add_eq_or_of_lt (i := 26)]
  all_goals omega

section
variable {op slot : Nat} (hop : op < 64) (hslot : slot < 65536) (ua : UReg)
include hop hslot

theorem fieldUA_formatM : fieldUA (formatM op ua slot) = ua := by
  refine (registerField_eq_iff (n := 3) _ ua).mpr ?_
  rw [formatM_toNat hop hslot]
  omega

theorem fieldSLOT_formatM : fieldSLOT (formatM op ua slot) = slot := by
  rw [fieldSLOT, BitVec.extractLsb'_toNat, Nat.shiftRight_eq_div_pow, formatM_toNat hop hslot]
  omega

end

/-! ### The words of the codec instructions -/

theorem isWordOf_ldbe (ua : UReg) {slot : Nat} (hslot : slot < 65536) :
    IsWordOf (formatM 0x0C ua slot) (.ldbe ua slot) :=
  isWordOf_encode 19 rfl rfl (Laws.EncodesItsRow.ldbe ua slot)
    (by simp [encode, fieldUA_formatM, fieldSLOT_formatM, hslot])

theorem isWordOf_stbe (ua : UReg) {slot : Nat} (hslot : slot < 65536) :
    IsWordOf (formatM 0x0D ua slot) (.stbe ua slot) :=
  isWordOf_encode 20 rfl rfl (Laws.EncodesItsRow.stbe ua slot)
    (by simp [encode, fieldUA_formatM, fieldSLOT_formatM, hslot])

theorem isWordOf_ldcZero (ua : UReg) : IsWordOf (formatR 0x0B ua 0 0 0 0 0 0) (.ldcZero ua) :=
  isWordOf_encode 17 rfl rfl (Laws.EncodesItsRow.ldcZero ua) (by simp [encode, fieldUA_formatR])

theorem isWordOf_ldcOne (ua : UReg) : IsWordOf (formatR 0x0B ua 0 0 0 0 0 1) (.ldcOne ua) :=
  isWordOf_encode 18 rfl rfl (Laws.EncodesItsRow.ldcOne ua) (by simp [encode, fieldUA_formatR])

end Sys2Proof
end

section
/-! SUPPORT. What LDBE and STBE do on either side of their checks (R190, R191), the value of a slot after a store to
it, and the frames of the codec instructions. -/

namespace Sys2Proof.Machine

/-! ### The frames -/

/-- A write to the bytes of DMEM that the frame names stays inside the frame. -/
theorem Frame.memWrite {us : List UReg} {es : List EReg} {a n : Nat} {s t : State} (h : Frame us es a n s t)
    (x : Nat) : Frame us es a n s (t.memWrite a n x) where
  values := h.values
  predicates := h.predicates
  dmem c hc := (t.memWrite_keeps a n x c hc).trans (h.dmem c hc)
  imem := h.imem
  run := ⟨h.run.run, h.run.faultCause, h.run.faultPc, h.run.faultInsn⟩
  hostSide := h.hostSide.memWrite
  draws := h.draws

/-- The effect of an instruction that writes one value register. -/
theorem State.frame_writeU_advance (s : State) (r : UReg) (x : Value) : Frame [r] [] 0 0 s (s.writeU r x).advance :=
  ((Frame.refl ..).writeU List.mem_cons_self x).advance

/-- The effect of an instruction that stores to DMEM. -/
theorem State.frame_memWrite_advance (s : State) (a n x : Nat) : Frame [] [] a n s (s.memWrite a n x).advance :=
  ((Frame.refl ..).memWrite x).advance

/-! ### The slot -/

/-- The check of an instruction that uses a slot passes exactly when the slot is in DMEM (R97). -/
theorem State.firstFault_slotOutside (s : State) (slot : Nat) :
    firstFault [(s.slotOutside slot, .dmemRange)] = if s.dmemSlots ≤ slot then some .dmemRange else none := by
  simp [State.slotOutside]

@[simp] theorem State.slotValue_advance (s : State) (slot : Nat) : s.advance.slotValue slot = s.slotValue slot := by
  rw [State.slotValue, State.slotValue, State.memRead_congr 32 fun c _ _ => s.dmemByte_advance c]

/-- A slot that a value has been stored to holds this value. -/
theorem State.slotValue_memWrite (s : State) (slot : Nat) (x : Value) :
    (s.memWrite (slotAddress slot) 32 x.toNat).slotValue slot = x := by
  rw [State.slotValue, State.memRead_memWrite, Nat.mod_eq_of_lt x.isLt, BitVec.ofNat_toNat, BitVec.setWidth_eq]

/-- Byte `k` of a value, most significant first, in its word 7 - floor(k/4) (R22, R63). -/
theorem valueWord_extractLsb'_byte (v : Value) {k : Nat} (hk : k < 32) :
    (valueWord v (7 - k / 4)).extractLsb' (24 - 8 * (k % 4)) 8 = v.extractLsb' (248 - 8 * k) 8 := by
  have hlow : 32 * (7 - k / 4) + (24 - 8 * (k % 4)) = 248 - 8 * k := by omega
  refine BitVec.eq_of_getLsbD_eq fun i hi => ?_
  have hword : 24 - 8 * (k % 4) + i < 32 := by omega
  simp only [valueWord, BitVec.getLsbD_extractLsb', hi, hword, decide_true, Bool.true_and, ← Nat.add_assoc, hlow]

/-! ### LDBE and STBE -/

variable {s : State} {slot : Nat}

theorem exec_ldbe_commits (h : slot < s.dmemSlots) (ua : UReg) :
    exec (.ldbe ua slot) s = .next (s.writeU ua (s.slotValue slot)).advance :=
  s.retire_commits _ (by rw [s.firstFault_slotOutside, if_neg (Nat.not_le.mpr h)])

theorem exec_ldbe_faults (h : s.dmemSlots ≤ slot) (ua : UReg) :
    ∃ t, exec (.ldbe ua slot) s = .next t ∧ EntersFault .dmemRange s.fetch s t :=
  s.retire_enters _ (by rw [s.firstFault_slotOutside, if_pos h])

/-- The checks of STBE: UNINIT comes before DMEM_RANGE (R213). -/
theorem State.firstFault_storeChecks (s : State) (ua : UReg) (slot : Nat) :
    firstFault [(s.unwritten ua, .uninit), (s.slotOutside slot, .dmemRange)] =
      if s.valid ua = true then if s.dmemSlots ≤ slot then some .dmemRange else none else some .uninit := by
  rw [firstFault_cons, s.firstFault_slotOutside, State.unwritten]
  cases s.valid ua <;> rfl

variable {ua : UReg}

theorem exec_stbe_commits (ha : s.valid ua = true) (h : slot < s.dmemSlots) :
    exec (.stbe ua slot) s = .next (s.memWrite (slotAddress slot) 32 (s.readU ua).toNat).advance :=
  s.retire_commits _ (by rw [s.firstFault_storeChecks, if_pos ha, if_neg (Nat.not_le.mpr h)])

theorem exec_stbe_uninit (ha : s.valid ua = false) (slot : Nat) :
    ∃ t, exec (.stbe ua slot) s = .next t ∧ EntersFault .uninit s.fetch s t :=
  s.retire_enters _ (by rw [s.firstFault_storeChecks, ha, if_neg Bool.false_ne_true])

theorem exec_stbe_range (ha : s.valid ua = true) (h : s.dmemSlots ≤ slot) :
    ∃ t, exec (.stbe ua slot) s = .next t ∧ EntersFault .dmemRange s.fetch s t :=
  s.retire_enters _ (by rw [s.firstFault_storeChecks, if_pos ha, if_pos h])

/-! ### LDC.ZERO and LDC.ONE -/

/-- An instruction that writes a constant to U[UA] and checks nothing obeys the rule of that constant. -/
theorem constantRule_of_exec {mk : UReg → Instr} {fn value : Nat} {x : Value} (hx : x.toNat = value)
    (hexec : ∀ ua s, exec (mk ua) s = .next (s.writeU ua x).advance)
    (hword : ∀ ua, IsWordOf (formatR 0x0B ua 0 0 0 0 0 fn) (mk ua)) : ConstantRule mk fn value :=
  ⟨fun s ua => ⟨_, hexec ua s, by simp [hx], by simp, rfl, s.frame_writeU_advance ua x⟩, hword⟩

end Sys2Proof.Machine
end

section
/-! SUPPORT. The statements about the codec instructions of 46_codec.md, settled. -/

namespace Sys2Proof.Machine

/-- Settles O16: each of the two writes its constant whatever the state, and its word is its own row of the opcode
table. -/
theorem constantsAreLoaded : Obligations.ConstantsAreLoaded :=
  ⟨constantRule_of_exec (x := 0) rfl (fun _ _ => rfl) isWordOf_ldcZero,
    constantRule_of_exec (x := 1) rfl (fun _ _ => rfl) isWordOf_ldcOne⟩

/-- Settles O13: the bytes of the slot are the fields of the value read from it; the bound is LDBE's only check. -/
theorem loadReadsBigEndianSlot : Obligations.LoadReadsBigEndianSlot := by
  refine ⟨fun s ua slot h => ⟨_, exec_ldbe_commits h ua, fun k hk => ?byte, ?valid, rfl, s.frame_writeU_advance ..⟩,
    fun s ua slot h => exec_ldbe_faults h ua, fun ua slot hslot => isWordOf_ldbe ua hslot⟩
  case byte =>
    rw [State.readU_advance, State.readU_writeU, if_pos rfl]
    exact s.extractLsb'_memRead_byte (slotAddress slot) (n := 32) (by omega)
  case valid => simp

/-- Settles O14: a stored byte is a field of the value, and so of the word that holds it; the fault of an unwritten
register comes before that of the slot, and no write stands before either. -/
theorem storeWritesBigEndianSlot : Obligations.StoreWritesBigEndianSlot := by
  refine ⟨fun s ua slot ha h => ⟨_, exec_stbe_commits ha h, fun k hk => ?bytes, ?pc, s.frame_memWrite_advance ..⟩,
    fun s ua slot ha => exec_stbe_uninit ha slot, fun s ua slot ha h => exec_stbe_range ha h,
    fun ua slot hslot => isWordOf_stbe ua hslot⟩
  case bytes =>
    have hbyte := s.dmemByte_memWrite_toNat (slotAddress slot) (s.readU ua) (n := 32) (k := k)
      (start := 248 - 8 * k) (by omega)
    rw [State.dmemByte_advance]
    exact ⟨hbyte, hbyte.trans (valueWord_extractLsb'_byte _ hk).symm⟩
  case pc => simp

/-- Settles O15: by O13 and O14 each byte of the slot goes through the same field of U[i] and back; the other way, the
slot holds the value stored to it. -/
theorem slotRoundTrips : Obligations.SlotRoundTrips := by
  refine ⟨fun s i slot h => ?loadStore, fun s i j slot hi h => ?storeLoad⟩
  case loadStore =>
    obtain ⟨ldbe_reads, -⟩ := loadReadsBigEndianSlot
    obtain ⟨stbe_writes, -⟩ := storeWritesBigEndianSlot
    obtain ⟨t, hload, hread, hwritten, -, hloadFrame⟩ := ldbe_reads s i slot h
    have hslots : t.dmemSlots = s.dmemSlots := by rw [State.dmemSlots, hloadFrame.hostSide.cfg, State.dmemSlots]
    obtain ⟨t', hstore, hstored, -, hstoreFrame⟩ := stbe_writes t i slot hwritten (hslots ▸ h)
    refine ⟨t', execAll_pair hload hstore, fun a => ?_⟩
    by_cases ha : slotAddress slot ≤ a ∧ a < slotAddress slot + 32
    · obtain ⟨hlow, hhigh⟩ := ha
      obtain ⟨k, rfl⟩ := Nat.exists_eq_add_of_le hlow
      have hk : k < 32 := by omega
      obtain ⟨hbyte, -⟩ := hstored k hk
      rw [hbyte, hread k hk]
    · rw [hstoreFrame.dmem a ha, hloadFrame.dmem a (by omega)]
  case storeLoad =>
    refine ⟨_, execAll_pair (exec_stbe_commits hi h) (exec_ldbe_commits (by simpa using h) j), ?_⟩
    rw [State.readU_advance, State.readU_writeU, if_pos rfl, State.slotValue_advance, State.slotValue_memWrite]

end Sys2Proof.Machine
end

section
/-! SUPPORT. A host write seen from the run state: CTRL.START is the only one that starts a run (R200, R201), and what a
write can do to a unit that is RUNNING (R42, R75). -/

namespace Sys2Proof.Machine

variable {s : State}

/-! ### Writes to CTRL (R42, R201) -/

theorem State.writeCtrl_starts {w : Word} (hstart : w.getLsbD 0 = true) (hreset : w.getLsbD 1 = false)
    (hrun : s.run ≠ .running) : s.writeCtrl w = { s.startRun with irqEn := w.getLsbD 2 } := by
  rw [State.writeCtrl, hstart, hreset]
  simp [hrun]

theorem State.writeCtrl_running {w : Word} (hreset : w.getLsbD 1 = false) (hrun : s.run = .running) :
    s.writeCtrl w = { s with irqEn := w.getLsbD 2 } := by
  rw [State.writeCtrl, hreset]
  simp [hrun]

theorem State.writeCtrl_softReset {w : Word} (hreset : w.getLsbD 1 = true) : s.writeCtrl w = s.softReset := by
  rw [State.writeCtrl, if_pos hreset]

/-- A write to CTRL leaves a stopped unit RUNNING only if it is a START without SOFT_RESET. -/
theorem State.starts_of_writeCtrl_run {w : Word} (hstop : s.run ≠ .running) (h : (s.writeCtrl w).run = .running) :
    w.getLsbD 0 = true ∧ w.getLsbD 1 = false := by
  cases hreset : w.getLsbD 1 with
  | true =>
    rw [State.writeCtrl_softReset hreset] at h
    cases h
  | false =>
    cases hstart : w.getLsbD 0 with
    | true => exact ⟨rfl, rfl⟩
    | false =>
      rw [State.writeCtrl, hreset, hstart] at h
      exact absurd h hstop

/-! ### The other writes start nothing -/

theorem State.writeStatus_run_eq_running (s : State) (w : Word) (h : (s.writeStatus w).run = .running) :
    s.run = .running := by
  by_cases hclears : s.ClearsStatus w
  · rw [State.writeStatus_clears hclears] at h
    cases h
  · rwa [State.writeStatus_inert hclears] at h

@[simp] theorem State.writeStartPc_run (s : State) (w : Word) : (s.writeStartPc w).run = s.run := by
  unfold State.writeStartPc
  split_ifs <;> rfl
@[simp] theorem State.writeDmemWindow_run (s : State) (b : Nat) (w : Word) : (s.writeDmemWindow b w).run = s.run := by
  unfold State.writeDmemWindow
  split_ifs <;> rfl
@[simp] theorem State.writeImemWindow_run (s : State) (i : Nat) (w : Word) : (s.writeImemWindow i w).run = s.run := by
  unfold State.writeImemWindow
  split_ifs <;> rfl

/-- A host write that makes a stopped unit RUNNING is a START without SOFT_RESET to CTRL (R200, R201). -/
theorem State.starts_of_hostWrite_run {off : Nat} {w : Word} (hstop : s.run ≠ .running)
    (h : (s.hostWrite off w).run = .running) : off = 0x010 ∧ w.getLsbD 0 = true ∧ w.getLsbD 1 = false := by
  unfold State.hostWrite State.writeControl at h
  split_ifs at h with _ hctrl
  · exact ⟨hctrl, State.starts_of_writeCtrl_run hstop h⟩
  · exact absurd (s.writeStatus_run_eq_running w h) hstop
  all_goals exact absurd (by simpa using h) hstop

/-! ### Writes to a unit that is RUNNING -/

/-- While RUNNING a host write can do no more than reset the unit or store IRQ_EN: every other target ignores it (R43,
R44, R75). -/
theorem State.hostWrite_running (hrun : s.run = .running) (off : Nat) (w : Word) :
    s.hostWrite off w = s.softReset ∨ ∃ b, s.hostWrite off w = { s with irqEn := b } := by
  have hinert : ∃ b, s = { s with irqEn := b } := ⟨s.irqEn, rfl⟩
  unfold State.hostWrite State.writeControl
  split_ifs
  · cases hreset : w.getLsbD 1 with
    | true => exact .inl (State.writeCtrl_softReset hreset)
    | false => exact .inr ⟨_, State.writeCtrl_running hreset hrun⟩
  · rw [State.writeStatus_inert (by simp [State.ClearsStatus, hrun])]
    exact .inr hinert
  · rw [State.writeStartPc_running w hrun]
    exact .inr hinert
  · exact .inr hinert
  · rw [State.writeDmemWindow, if_pos hrun]
    exact .inr hinert
  · rw [State.writeImemWindow, if_pos hrun]
    exact .inr hinert
  · exact .inr hinert

end Sys2Proof.Machine
end

section
/-! SUPPORT. The sequencer's turn, branch by branch (R202, R213, R229), and what it does to a run: the run ends in
HALTED or FAULTED, or it goes on with PC one further (R31, R200). -/

namespace Sys2Proof.Machine

variable {s t s' : State}

/-! ### The turn as an equation in each branch -/

theorem sequence_stopped (hrun : s.run ≠ .running) : sequence s = .next s := by rw [sequence, if_neg hrun]

theorem sequence_pcRange (hrun : s.run = .running) (hpc : s.imemWords ≤ s.pc) :
    sequence s = .next (s.takeFault .pcRange 0) := by
  rw [sequence, if_pos hrun, cycle, if_pos hpc]

theorem sequence_decoded {i : Instr} (hrun : s.run = .running) (hpc : s.pc < s.imemWords)
    (hdecode : decode s.fetch = .ok i) : sequence s = exec i s := by
  rw [sequence, if_pos hrun, cycle, if_neg (Nat.not_le.mpr hpc), hdecode]

/-! ### What one instruction does to the run -/

/-- An instruction other than HALT that retires leaves the run state and moves PC to the next index (R31). -/
structure Advances (s t : State) : Prop where
  run : t.run = s.run
  pc : t.pc = s.pc + 1

theorem recipEffect_advances (ua ub : UReg) (s : State) : Advances s (recipEffect ua ub s) := by
  unfold recipEffect
  dsimp only
  split_ifs <;> exact ⟨rfl, rfl⟩

/-- Every instruction retires: it raises a fault or commits an effect, which ends the run for HALT and advances it for
every other (R202, R203). -/
theorem exec_retires (i : Instr) (s : State) : ∃ checks effect,
    exec i s = s.retire checks effect ∧ (effect.run = .halted ∨ Advances s effect) := by
  cases i with
  | replace | swap | shr1 | ldbe => exact ⟨_, _, rfl, .inr ⟨rfl, rfl⟩⟩
  | add | sub | shl1 | cmpEq | cmpNe | cmpLt | cmpLe | cmpGt | cmpGe | par | stbe =>
    exact ⟨_, _, rfl, .inr ⟨by simp, by simp⟩⟩
  | recip ua ub => exact ⟨_, _, rfl, .inr (recipEffect_advances ua ub s)⟩
  | ldcZero | ldcOne => exact ⟨[], _, rfl, .inr ⟨rfl, rfl⟩⟩
  | pand | por | pxor => exact ⟨[], _, rfl, .inr ⟨by simp, by simp⟩⟩
  | halt => exact ⟨[], _, rfl, .inl rfl⟩

theorem exec_answers (i : Instr) (s : State) : ∃ t, exec i s = .next t := by
  obtain ⟨checks, effect, hexec, -⟩ := exec_retires i s
  exact hexec ▸ s.retire_next checks effect

theorem exec_ends_or_advances {i : Instr} (h : exec i s = .next t) :
    t.run = .halted ∨ t.run = .faulted ∨ Advances s t := by
  obtain ⟨checks, effect, hexec, heffect⟩ := exec_retires i s
  obtain ⟨c, -, hfault⟩ | ⟨-, hcommit⟩ := s.retire_cases checks effect
  · cases h.symm.trans (hexec.trans hfault)
    exact .inr (.inl rfl)
  · cases h.symm.trans (hexec.trans hcommit)
    exact heffect.imp_right .inr

/-! ### What one turn does to the run -/

theorem SequencerTurn.run (h : SequencerTurn s s') : s'.run = s.run := by
  obtain ⟨rest, rfl⟩ := h.eq_withHost
  rfl

theorem SequencerTurn.pc (h : SequencerTurn s s') : s'.pc = s.pc := by
  obtain ⟨rest, rfl⟩ := h.eq_withHost
  rfl

theorem SequencerTurn.cfg (h : SequencerTurn s s') : s'.cfg = s.cfg := by
  obtain ⟨rest, rfl⟩ := h.eq_withHost
  rfl

/-- A turn takes at most a host's action of none from the script. -/
theorem SequencerTurn.host_suffix (h : SequencerTurn s s') : s'.host <:+ s.host := by
  obtain ⟨-, rfl⟩ | ⟨rest, hhost, rfl⟩ := h
  · exact List.suffix_rfl
  · rw [hhost]
    exact List.suffix_cons ..

theorem sequence_answers (s : State) : ∃ t, sequence s = .next t := by
  by_cases hrun : s.run = .running
  · by_cases hpc : s.pc < s.imemWords
    · cases hdecode : decode s.fetch with
      | ok i => exact sequence_decoded hrun hpc hdecode ▸ exec_answers i s
      | error e => exact ⟨_, sequence_illegal hrun hpc ⟨e, hdecode⟩⟩
    · exact ⟨_, sequence_pcRange hrun (Nat.not_lt.mp hpc)⟩
  · exact ⟨_, sequence_stopped hrun⟩

/-- A turn of a RUNNING unit ends the run, or it executes an instruction inside IMEM and PC is one further. -/
theorem sequence_ends_or_advances (hrun : s.run = .running) (h : sequence s = .next t) :
    t.run = .halted ∨ t.run = .faulted ∨ (s.pc < s.imemWords ∧ Advances s t) := by
  obtain ⟨hstop, -⟩ | ⟨-, -, rfl⟩ | ⟨-, -, -, rfl⟩ | ⟨-, hpc, i, -, hexec⟩ := sequence_cases h
  · exact absurd hrun hstop
  · exact .inr (.inl rfl)
  · exact .inr (.inl rfl)
  · exact (exec_ends_or_advances hexec).imp_right (.imp_right fun hadvances => ⟨hpc, hadvances⟩)

end Sys2Proof.Machine
end

section
/-! SUPPORT. The statements about HALT, START and single steps of 47_control.md, settled. -/

namespace Sys2Proof.Machine

/-- OP 0x3F is HALT's alone, and HALT's row fixes every bit of the word (R93, R94). -/
theorem opcodeTable_halt : ∀ r ∈ opcodeTable, fieldOP r.pattern = 0x3F →
    r.pattern = 0xFC000000 ∧ r.mask = BitVec.allOnes 32 := by decide

/-- Settles O17: HALT's effect is the run state alone, and the one row with OP 0x3F fits the one word. -/
theorem haltEndsTheRun : Obligations.HaltEndsTheRun := by
  refine ⟨fun s => ⟨s.haltRun, rfl, rfl, rfl, fun hirq => ?irq, rfl, rfl, rfl, rfl, fun _ _ => ⟨rfl, rfl⟩,
    fun _ _ => rfl, fun _ _ => rfl, fun _ => rfl, (KeepsHostSide.refl s).haltRun⟩,
    isWordOf_encode 21 rfl rfl Laws.EncodesItsRow.halt rfl, fun w hop hne => ?illegal⟩
  case irq => simp [State.irq, hirq]
  case illegal =>
    rw [decode_error_iff]
    rintro ⟨r, hr, hfit⟩
    obtain ⟨hrow, -, -⟩ := (Row.fits_iff hr w).mp hfit
    obtain ⟨hpattern, hmask⟩ := opcodeTable_halt r hr (hrow.symm.trans hop)
    rw [Row.fits, hpattern, hmask, BitVec.and_allOnes, beq_iff_eq] at hfit
    exact hne hfit

/-- Settles O30: the turn is the whole step, and the state it runs at differs in the host's script alone. -/
theorem stepRunsDecodedInstruction : Obligations.StepRunsDecodedInstruction := by
  intro s s' i hturn hrun hpc hdecode
  rw [hturn.step_eq]
  obtain ⟨rest, rfl⟩ := hturn.eq_withHost
  exact sequence_decoded hrun hpc hdecode

/-- Settles O43: the write to CTRL on either side of the run state. -/
theorem startBeginsARun : Obligations.StartBeginsARun := by
  refine ⟨fun s w hstart hreset hstop => ⟨{ s.startRun with irqEn := w.getLsbD 2 }, ?starts, rfl, rfl, rfl, rfl, rfl,
    rfl, ?irq, rfl, rfl, fun _ _ => ⟨rfl, rfl⟩, fun _ _ => rfl, fun _ _ => rfl, fun _ => rfl⟩,
    fun s w hreset hrun => ?ignored⟩
  case starts =>
    rw [hostWrites_eq s w (by omega) (by omega), s.hostWrite_ctrl, State.writeCtrl_starts hstart hreset hstop]
  case irq => simp [State.irq]
  case ignored =>
    rw [hostWrites_eq s w (by omega) (by omega), s.hostWrite_ctrl, State.writeCtrl_running hreset hrun]

/-- Settles O33: of all that a step can do, the sequencer's turn, a reset and a read leave a stopped unit stopped, and
of the writes all but START do. -/
theorem onlyStartEntersRunning : Obligations.OnlyStartEntersRunning := by
  intro s t hstop h hrun
  obtain ⟨s', hturn, hseq⟩ | ⟨rest, -, rfl⟩ | ⟨addr, rest, -, -, -, rfl⟩ | ⟨addr, w, rest, hhost, -, -, rfl⟩ :=
    step_cases h
  · rw [← hturn.run] at hstop
    cases hseq.symm.trans (sequence_stopped hstop)
    exact absurd hrun hstop
  · cases hrun
  · exact absurd hrun hstop
  · obtain ⟨hoff, hstart, hreset⟩ := State.starts_of_hostWrite_run (s := { s with host := rest }) hstop hrun
    obtain rfl : addr = s.base + 0x010 := by omega
    refine ⟨w, rest, hhost, hstart, hreset, ?_⟩
    rw [hoff, State.hostWrite_ctrl, State.writeCtrl_starts hstart hreset (s := { s with host := rest }) hstop]
    exact ⟨rfl, rfl, rfl, rfl⟩

/-- Settles O34: a turn that does not end the run is an instruction; a host action that does not end it moves no PC. -/
theorem runningPcOnlyAdvances : Obligations.RunningPcOnlyAdvances := by
  refine fun s t hrun h hgoes => ⟨fun s' hturn => ?turn, fun hhost => ?host⟩
  case turn =>
    rw [hturn.step_eq] at h
    obtain hhalt | hfault | ⟨-, hadvances⟩ := sequence_ends_or_advances (hturn.run.trans hrun) h
    · cases hhalt.symm.trans hgoes
    · cases hfault.symm.trans hgoes
    · rw [hadvances.pc, hturn.pc]
  case host =>
    obtain ⟨s', hturn, -⟩ | ⟨rest, -, rfl⟩ | ⟨addr, rest, -, -, -, rfl⟩ | ⟨addr, w, rest, -, -, -, rfl⟩ := step_cases h
    · exact absurd ⟨s', hturn⟩ hhost
    · cases hgoes
    · rfl
    · obtain hreset | ⟨b, hirq⟩ := State.hostWrite_running (s := { s with host := rest }) hrun (addr - s.base) w
      · rw [hreset] at hgoes
        cases hgoes
      · rw [hirq]

end Sys2Proof.Machine
end

section
/-! SUPPORT. Several steps, step by step, and when a step answers: always with no host action, and with every host
action that the spec gives a meaning (R39, R71). -/

namespace Sys2Proof.Machine

variable {s t : State}

/-! ### Runs, step by step -/

/-- A run of any machine is its first step and then the rest. -/
theorem run_succ_of_step {M : Host.Core} {a b : M.State} (h : M.step a = .next b) (k : Nat) :
    M.run (k + 1) a = M.run k b := by
  rw [Host.Core.run, h]

theorem runSteps_succ (h : step s = .next t) (k : Nat) : runSteps (k + 1) s = runSteps k t :=
  run_succ_of_step (M := core) h k

/-! ### With no host action -/

theorem step_of_no_host (h : s.host = []) : step s = sequence s :=
  SequencerTurn.step_eq (.inl ⟨h, rfl⟩)

/-- A step with no host action answers a state with no host action. -/
theorem step_answers_of_no_host (h : s.host = []) : ∃ t, step s = .next t ∧ t.host = [] := by
  obtain ⟨t, hseq⟩ := sequence_answers s
  exact ⟨t, (step_of_no_host h).trans hseq, (sequence_keepsHostSide hseq).host.trans h⟩

theorem runSteps_answers_of_no_host (n : Nat) : ∀ {s : State}, s.host = [] → ∃ t, runSteps n s = .next t := by
  induction n with
  | zero => exact fun {s} _ => ⟨s, rfl⟩
  | succ n ih =>
    intro s h
    obtain ⟨t, hstep, ht⟩ := step_answers_of_no_host h
    rw [runSteps_succ hstep]
    exact ih ht

/-- A stopped unit stays as it is (R229). -/
theorem runSteps_stopped (hrun : s.run ≠ .running) (hhost : s.host = []) (n : Nat) : runSteps n s = .next s := by
  induction n with
  | zero => rfl
  | succ n ih => rw [runSteps_succ ((step_of_no_host hhost).trans (sequence_stopped hrun)), ih]

/-! ### With supported host actions -/

theorem State.base_congr (h : t.cfg = s.cfg) : t.base = s.base := by rw [State.base, h, State.base]

theorem State.hostAccess_supported {addr : Nat} (s act : State) (hal : addr % 4 = 0) (hlow : s.base ≤ addr)
    (hhigh : addr < s.base + 16384) : s.hostAccess addr 4 act = .next act := by
  simp [State.hostAccess, supportedAccess, State.ownsAddress, hal, hlow, hhigh]

theorem State.hostStep_answers {act : HostAct} (h : ActSupported s.base act) : ∃ t, s.hostStep act = .next t := by
  cases act with
  | idle | hardReset => exact ⟨_, rfl⟩
  | read | write =>
    obtain ⟨rfl, hal, hlow, hhigh⟩ := h
    exact ⟨_, s.hostAccess_supported _ hal hlow hhigh⟩

theorem step_answers (h : ∀ a ∈ s.host, ActSupported s.base a) : ∃ t, step s = .next t := by
  cases hhost : s.host with
  | nil => exact step_of_no_host hhost ▸ sequence_answers s
  | cons act rest =>
    by_cases hidle : act = .idle
    · subst hidle
      exact SequencerTurn.step_eq (.inr ⟨rest, hhost, rfl⟩) ▸ sequence_answers _
    · rw [step_of_host hhost hidle]
      exact State.hostStep_answers (h act (hhost ▸ List.mem_cons_self))

end Sys2Proof.Machine
end

section
/-! SUPPORT. Why every run ends (R205): a step of a RUNNING unit ends the run, or it uses up an instruction index or an
action of the host's script. -/

namespace Sys2Proof.Machine

variable {s t : State}

/-- How many steps a run can still take: one for each index from PC to IMEM_WORDS, and one for each action of the host's
script. -/
def State.stepsLeft (s : State) : Nat := s.imemWords - s.pc + 1 + s.host.length

/-- The run has ended in `t`, and by itself if the host's script in `s` only waits and polls. -/
structure EndsRun (s t : State) : Prop where
  ended : Ended t
  polled : (∀ a ∈ s.host, ActPolls a) → t.run = .halted ∨ t.run = .faulted

/-- The run that `s` is in goes on in `t`, with fewer steps left. -/
structure ContinuesRun (s t : State) : Prop where
  run : t.run = .running
  cfg : t.cfg = s.cfg
  pc : t.pc ≤ t.imemWords
  host : t.host ⊆ s.host
  stepsLeft : t.stepsLeft < s.stepsLeft

theorem EndsRun.of_run (h : t.run = .halted ∨ t.run = .faulted) : EndsRun s t where
  ended hrunning := by simp [hrunning] at h
  polled _ := h

/-- A run that a reset ends is not one that the host only polls. -/
theorem EndsRun.of_reset {act : HostAct} {rest : List HostAct} (hhost : s.host = act :: rest) (hact : ¬ActPolls act)
    (h : t.run = .idle) : EndsRun s t where
  ended hrunning := by simp [hrunning] at h
  polled hpolls := absurd (hpolls act (hhost ▸ List.mem_cons_self)) hact

theorem EndsRun.of_host_subset {s' : State} (hsub : s'.host ⊆ s.host) (h : EndsRun s' t) : EndsRun s t where
  ended := h.ended
  polled hpolls := h.polled fun a ha => hpolls a (hsub ha)

/-- An instruction uses up its index, whether or not the turn took a host's action of none from the script. -/
theorem ContinuesRun.of_turn {s' : State} (hrun : s.run = .running) (hturn : SequencerTurn s s')
    (hkeeps : KeepsHostSide s' t) (hpc : s.pc < s.imemWords) (hadvances : Advances s' t) : ContinuesRun s t := by
  have hcfg : t.cfg = s.cfg := hkeeps.cfg.trans hturn.cfg
  have hwords := State.imemWords_congr hcfg
  have htpc : t.pc = s.pc + 1 := hadvances.pc.trans (congrArg (· + 1) hturn.pc)
  have hsuffix : t.host <:+ s.host := hkeeps.host ▸ hturn.host_suffix
  have hlength := hsuffix.length_le
  refine ⟨hadvances.run.trans (hturn.run.trans hrun), hcfg, by omega, hsuffix.subset, ?_⟩
  unfold State.stepsLeft
  omega

/-- A host action that leaves PC uses up its place in the script. -/
theorem ContinuesRun.of_hostAction {act : HostAct} (hhost : s.host = act :: t.host) (hrun : t.run = .running)
    (hcfg : t.cfg = s.cfg) (hpc : t.pc = s.pc) (hrange : s.pc ≤ s.imemWords) : ContinuesRun s t := by
  have hwords := State.imemWords_congr hcfg
  refine ⟨hrun, hcfg, by omega, by simp [hhost], ?_⟩
  simp only [State.stepsLeft, hwords, hpc, hhost, List.length_cons]
  omega

/-- A step of a RUNNING unit ends the run or leaves it fewer steps. -/
theorem step_endsRun_or_continuesRun (hrun : s.run = .running) (hpc : s.pc ≤ s.imemWords) (h : step s = .next t) :
    EndsRun s t ∨ ContinuesRun s t := by
  obtain ⟨s', hturn, hseq⟩ | ⟨rest, hhost, rfl⟩ | ⟨addr, rest, hhost, -, -, rfl⟩ | ⟨addr, w, rest, hhost, -, -, rfl⟩ :=
    step_cases h
  · obtain hhalt | hfault | ⟨hlt, hadvances⟩ := sequence_ends_or_advances (hturn.run.trans hrun) hseq
    · exact .inl (.of_run (.inl hhalt))
    · exact .inl (.of_run (.inr hfault))
    · rw [hturn.pc, State.imemWords_congr hturn.cfg] at hlt
      exact .inr (.of_turn hrun hturn (sequence_keepsHostSide hseq) hlt hadvances)
  · exact .inl (.of_reset hhost id rfl)
  · exact .inr (.of_hostAction hhost hrun rfl rfl hpc)
  · obtain hreset | ⟨b, hirq⟩ := State.hostWrite_running (s := { s with host := rest }) hrun (addr - s.base) w
    · rw [hreset]
      exact .inl (.of_reset hhost id rfl)
    · rw [hirq]
      exact .inr (.of_hostAction hhost hrun rfl rfl hpc)

/-- A run ends within the steps it has left, if every host action is one that the spec gives a meaning. -/
theorem runSteps_endsRun (n : Nat) : ∀ {s : State}, s.stepsLeft ≤ n → s.run = .running → s.pc ≤ s.imemWords →
    (∀ a ∈ s.host, ActSupported s.base a) → ∃ k t, k ≤ n ∧ runSteps k s = .next t ∧ EndsRun s t := by
  induction n with
  | zero =>
    intro s hleft
    simp [State.stepsLeft] at hleft
  | succ n ih =>
    intro s hleft hrun hpc hsupported
    obtain ⟨t, hstep⟩ := step_answers hsupported
    obtain hends | hcontinues := step_endsRun_or_continuesRun hrun hpc hstep
    · exact ⟨1, t, by omega, runSteps_succ hstep 0, hends⟩
    · have hbase := State.base_congr hcontinues.cfg
      obtain ⟨k, t', hk, hsteps, hends⟩ := ih (by have := hcontinues.stepsLeft; omega) hcontinues.run hcontinues.pc
        fun a ha => hbase ▸ hsupported a (hcontinues.host ha)
      exact ⟨k + 1, t', by omega, (runSteps_succ hstep k).trans hsteps, hends.of_host_subset hcontinues.host⟩

end Sys2Proof.Machine
end

section
/-! SUPPORT. Two states that agree on everything but U, E and DMEM run alike (R207): each operation of an instruction
keeps the agreement, whatever it writes there, and the checks of R213 but RECIP_PRECOND read nothing else. -/

namespace Sys2Proof.Machine

variable {s t : State}

/-! ### What agreeing states agree on -/

namespace SameControl

theorem imemWords (h : SameControl s t) : t.imemWords = s.imemWords := State.imemWords_congr h.cfg

theorem fetch (h : SameControl s t) : t.fetch = s.fetch := by
  rw [State.fetch, h.pc, State.imemWord_congr h.imem h.powerOns, State.fetch]

theorem valid (h : SameControl s t) (r : UReg) : t.valid r = s.valid r := by rw [State.valid, h.v, State.valid]

theorem unwritten (h : SameControl s t) (r : UReg) : t.unwritten r = s.unwritten r := by
  rw [State.unwritten, h.valid, State.unwritten]

theorem pairChecks (h : SameControl s t) (ua ub : UReg) : t.pairChecks ua ub = s.pairChecks ua ub := by
  simp only [State.pairChecks, h.unwritten]

theorem slotOutside (h : SameControl s t) (slot : Nat) : t.slotOutside slot = s.slotOutside slot := by
  rw [State.slotOutside, State.dmemSlots, h.cfg, State.slotOutside, State.dmemSlots]

/-! ### Each operation keeps the agreement -/

theorem writeU (h : SameControl s t) {r : UReg} {x y : Value} : SameControl (s.writeU r x) (t.writeU r y) :=
  { h with v := by simp [h.v] }

theorem writeE (h : SameControl s t) {e : EReg} {b c : Bool} : SameControl (s.writeE e b) (t.writeE e c) := by
  obtain ⟨hcfg, himem, hpowerOns, hpc, hrun, hstartPc, hv, hcause, hfaultPc, hinsn, hhost⟩ := h
  constructor <;> simpa

theorem memWrite (h : SameControl s t) {a n x y : Nat} : SameControl (s.memWrite a n x) (t.memWrite a n y) :=
  { h with }

theorem advance (h : SameControl s t) : SameControl s.advance t.advance :=
  { h with pc := congrArg (· + 1) h.pc }

theorem withDraws (h : SameControl s t) {d d' : Nat} : SameControl { s with draws := d } { t with draws := d' } :=
  { h with }

theorem haltRun (h : SameControl s t) : SameControl s.haltRun t.haltRun := { h with run := rfl }

theorem takeFault (h : SameControl s t) (c : FaultCause) (w : Word) :
    SameControl (s.takeFault c w) (t.takeFault c w) :=
  { h with run := rfl, faultCause := rfl, faultPc := h.pc, faultInsn := rfl }

end SameControl

/-! ### Outcomes that agree -/

/-- The unit has stopped with RECIP_PRECOND, the one fault that depends on data (R207). -/
structure PrecondFaulted (s : State) : Prop where
  run : s.run = .faulted
  faultCause : s.faultCause = .recipPrecond

/-- Both answer, and the next states agree unless one of them has stopped with RECIP_PRECOND. -/
def SameControlNext (r r' : Result) : Prop :=
  ∃ s t, r = .next s ∧ r' = .next t ∧ (SameControl s t ∨ PrecondFaulted s ∨ PrecondFaulted t)

theorem SameControl.next (h : SameControl s t) : SameControlNext (.next s) (.next t) := ⟨s, t, rfl, rfl, .inl h⟩

/-- Retirement with the same first fault on both sides, or with RECIP_PRECOND on one of them. -/
theorem SameControl.retire (h : SameControl s t) {checks checks' : List (Bool × FaultCause)} {effect effect' : State}
    (hchecks : firstFault checks' = firstFault checks ∨ firstFault checks = some .recipPrecond ∨
      firstFault checks' = some .recipPrecond)
    (heffect : SameControl effect effect') : SameControlNext (s.retire checks effect) (t.retire checks' effect') := by
  obtain hsame | hprecond | hprecond := hchecks
  · cases hfirst : firstFault checks with
    | none =>
      rw [s.retire_commits effect hfirst, t.retire_commits effect' (hsame.trans hfirst)]
      exact heffect.next
    | some c =>
      rw [s.retire_faults effect hfirst, t.retire_faults effect' (hsame.trans hfirst), h.fetch]
      exact (h.takeFault c s.fetch).next
  · obtain ⟨t', ht'⟩ := t.retire_next checks' effect'
    exact ⟨_, t', s.retire_faults effect hprecond, ht', .inr (.inl ⟨rfl, rfl⟩)⟩
  · obtain ⟨s', hs'⟩ := s.retire_next checks effect
    exact ⟨s', _, hs', t.retire_faults effect' hprecond, .inr (.inr ⟨rfl, rfl⟩)⟩

/-! ### RECIP -/

/-- Whichever value RECIP writes, the control it leaves is that of one write to U[UA]. -/
theorem recipEffect_eq (ua ub : UReg) (s : State) :
    ∃ x d, recipEffect ua ub s = { (s.writeU ua x).advance with draws := d } := by
  unfold recipEffect
  dsimp only
  split_ifs
  exacts [⟨_, s.draws, rfl⟩, ⟨_, s.draws + 1, rfl⟩]

theorem SameControl.recipEffect (h : SameControl s t) (ua ub : UReg) :
    SameControl (recipEffect ua ub s) (recipEffect ua ub t) := by
  obtain ⟨x, d, hs⟩ := recipEffect_eq ua ub s
  obtain ⟨y, d', ht⟩ := recipEffect_eq ua ub t
  rw [hs, ht]
  exact h.writeU.advance.withDraws

/-- The checks of RECIP differ between agreeing states only where one of them reports RECIP_PRECOND. -/
theorem SameControl.execRecip (h : SameControl s t) (ua ub : UReg) :
    SameControlNext (execRecip ua ub s) (execRecip ua ub t) := by
  refine h.retire ?_ (h.recipEffect ua ub)
  rw [s.firstFault_recipChecks, t.firstFault_recipChecks, h.valid, h.valid]
  split_ifs <;> simp

/-! ### One instruction, one turn, many steps -/

/-- Every instruction but RECIP reads only the valid bits and the size of DMEM for its checks (R81, R207). -/
theorem SameControl.exec (h : SameControl s t) (i : Instr) : SameControlNext (exec i s) (exec i t) := by
  cases i with
  | replace => exact h.retire (.inl (by simp only [h.unwritten])) h.writeU.advance
  | swap => exact h.retire (.inl (by rw [h.pairChecks])) h.writeU.writeU.advance
  | add | sub => exact h.retire (.inl (by rw [h.pairChecks])) h.writeU.writeE.advance
  | shl1 => exact h.retire (.inl (by rw [h.unwritten])) h.writeU.writeE.advance
  | shr1 => exact h.retire (.inl (by rw [h.unwritten])) h.writeU.advance
  | recip ua ub => exact h.execRecip ua ub
  | cmpEq | cmpNe | cmpLt | cmpLe | cmpGt | cmpGe =>
    exact h.retire (.inl (by rw [h.pairChecks])) h.writeE.advance
  | par => exact h.retire (.inl (by rw [h.unwritten])) h.writeE.advance
  | pand | por | pxor => exact h.writeE.advance.next
  | ldcZero | ldcOne => exact h.writeU.advance.next
  | ldbe => exact h.retire (.inl (by rw [h.slotOutside])) h.writeU.advance
  | stbe => exact h.retire (.inl (by rw [h.unwritten, h.slotOutside])) h.memWrite.advance
  | halt => exact h.haltRun.next

/-- The branch that a turn takes depends on the run state, PC and the fetched word alone (R202). -/
theorem SameControl.sequence (h : SameControl s t) : SameControlNext (sequence s) (sequence t) := by
  by_cases hrun : s.run = .running
  · have hrun' : t.run = .running := h.run.trans hrun
    by_cases hpc : s.pc < s.imemWords
    · have hpc' : t.pc < t.imemWords := by rwa [h.pc, h.imemWords]
      cases hdecode : decode s.fetch with
      | ok i =>
        rw [sequence_decoded hrun hpc hdecode, sequence_decoded hrun' hpc' (h.fetch ▸ hdecode)]
        exact h.exec i
      | error e =>
        rw [sequence_illegal hrun hpc ⟨e, hdecode⟩, sequence_illegal hrun' hpc' ⟨e, h.fetch ▸ hdecode⟩, h.fetch]
        exact (h.takeFault .illegal s.fetch).next
    · rw [Nat.not_lt] at hpc
      have hpc' : t.imemWords ≤ t.pc := by rwa [h.pc, h.imemWords]
      rw [sequence_pcRange hrun hpc, sequence_pcRange hrun' hpc']
      exact (h.takeFault .pcRange 0).next
  · rw [sequence_stopped hrun, sequence_stopped (h.run ▸ hrun)]
    exact h.next

/-- A unit that has stopped with RECIP_PRECOND stays so with no host action. -/
theorem PrecondFaulted.runSteps (h : PrecondFaulted s) (hhost : s.host = []) (n : Nat) : runSteps n s = .next s :=
  runSteps_stopped (by simp [h.run]) hhost n

/-- With no host action, agreeing states agree after any number of steps, unless RECIP_PRECOND has stopped one. -/
theorem SameControl.runSteps (n : Nat) : ∀ {s t : State}, SameControl s t → s.host = [] →
    SameControlNext (runSteps n s) (runSteps n t) := by
  induction n with
  | zero => exact fun h _ => h.next
  | succ n ih =>
    intro s t h hhost
    have hhost' : t.host = [] := h.host.trans hhost
    obtain ⟨s', t', hs, ht, hagree⟩ := h.sequence
    have hs' : s'.host = [] := (sequence_keepsHostSide hs).host.trans hhost
    have ht' : t'.host = [] := (sequence_keepsHostSide ht).host.trans hhost'
    rw [runSteps_succ ((step_of_no_host hhost).trans hs), runSteps_succ ((step_of_no_host hhost').trans ht)]
    obtain hsame | hfault | hfault := hagree
    · exact ih hsame hs'
    · obtain ⟨r, hr⟩ := runSteps_answers_of_no_host n ht'
      exact ⟨s', r, hfault.runSteps hs' n, hr, .inr (.inl hfault)⟩
    · obtain ⟨r, hr⟩ := runSteps_answers_of_no_host n hs'
      exact ⟨r, t', hr, hfault.runSteps ht' n, .inr (.inr hfault)⟩

end Sys2Proof.Machine
end

section
/-! SUPPORT. The statements about whole runs of 47_control.md, settled. -/

namespace Sys2Proof.Machine

/-- Settles O35: the steps left fall with every step that does not end the run. -/
theorem everyRunEnds : Obligations.EveryRunEnds := by
  intro s hrun hpc hsupported
  obtain ⟨k, t, hk, hsteps, hends⟩ := runSteps_endsRun s.stepsLeft le_rfl hrun hpc hsupported
  exact ⟨⟨k, t, hk, hsteps, hends.ended⟩, fun hpolls => ⟨k, t, hk, hsteps, hends.polled hpolls⟩⟩

/-- Settles O36: the simulation between agreeing states, with the fault of RECIP as the one way out. -/
theorem controlFlowIgnoresData : Obligations.ControlFlowIgnoresData := by
  intro n s t h hhost
  obtain ⟨s', t', hs, ht, hagree⟩ := h.runSteps n hhost
  exact ⟨s', t', hs, ht, hagree.imp_right (.imp PrecondFaulted.faultCause PrecondFaulted.faultCause)⟩

end Sys2Proof.Machine
end

section
/-! SUPPORT. Decoding and encoding as inverses (R90 to R96, R106): the word of a well-formed instruction, and a word as
the format of its own fields. -/

namespace Sys2Proof
open Machine

/-! ### From the instruction to its word -/

/-- The encoding of every instruction is its word, where its operands have an encoding. -/
theorem isWordOf_encode_of_wf {i : Instr} (h : i.wf = true) : IsWordOf (encode i) i := by
  obtain ⟨⟨-, -, hEq⟩, ⟨-, -, hNe⟩, ⟨-, -, hLt⟩, ⟨-, -, hLe⟩, ⟨-, -, hGt⟩, ⟨-, -, hGe⟩⟩ :=
    comparesWriteUnsignedRelation
  cases i with
  | replace ua ub pe => exact isWordOf_replace ua ub pe
  | swap ua ub pe => exact isWordOf_swap ua ub pe
  | add ua ub pe pd => exact isWordOf_add ua ub pe pd
  | sub ua ub pe pd => exact isWordOf_sub ua ub pe pd
  | shl1 ua pd => exact isWordOf_shl1 ua pd
  | shr1 ua pe => exact isWordOf_shr1 ua pe
  | recip ua ub => exact isWordOf_recip ua ub
  | cmpEq ua ub pd => exact hEq ua ub pd
  | cmpNe ua ub pd => exact hNe ua ub pd
  | cmpLt ua ub pd => exact hLt ua ub pd
  | cmpLe ua ub pd => exact hLe ua ub pd
  | cmpGt ua ub pd => exact hGt ua ub pd
  | cmpGe ua ub pd => exact hGe ua ub pd
  | par ua pd => exact isWordOf_par ua pd
  | pand pd pa pb => exact LogicOp.and.isWordOf_instr pd pa pb
  | por pd pa pb => exact LogicOp.or.isWordOf_instr pd pa pb
  | pxor pd pa pb => exact LogicOp.xor.isWordOf_instr pd pa pb
  | ldcZero ua => exact isWordOf_ldcZero ua
  | ldcOne ua => exact isWordOf_ldcOne ua
  | ldbe ua slot => exact isWordOf_ldbe ua (of_decide_eq_true h)
  | stbe ua slot => exact isWordOf_stbe ua (of_decide_eq_true h)
  | halt => exact isWordOf_encode 21 rfl rfl Laws.EncodesItsRow.halt rfl

/-! ### From the word to its instruction -/

/-- Two rows that one word fits agree on the bits that both of them fix. -/
theorem Row.patterns_agree {r q : Row} {w : Word} (hr : r.fits w = true) (hq : q.fits w = true) :
    r.pattern &&& q.mask = q.pattern &&& r.mask := by
  rw [Row.fits, beq_iff_eq] at hr hq
  rw [← hr, ← hq, BitVec.and_assoc, BitVec.and_assoc, BitVec.and_comm r.mask]

/-- A word decodes to what a row that it fits reads from it (R106). -/
theorem exists_row_of_decode {w : Word} {i : Instr} (h : decode w = .ok i) :
    ∃ r ∈ opcodeTable, r.fits w = true ∧ r.build w = i := by
  unfold decode at h
  cases hfind : opcodeTable.find? (·.fits w) with
  | none =>
    rw [hfind] at h
    cases h
  | some r =>
    rw [hfind] at h
    cases h
    exact ⟨r, List.mem_of_find?_eq_some hfind, by simpa using List.find?_some hfind, rfl⟩

section
variable {op fn : Nat} (hop : op < 64) (hfn : fn < 16) (ua ub : UReg) (pe pd pa pb : EReg)
include hop hfn

theorem fieldFN_formatR : fieldFN (formatR op ua ub pe pd pa pb fn) = fn := by
  rw [fieldFN, BitVec.extractLsb'_toNat, Nat.shiftRight_eq_div_pow, formatR_toNat hop (by omega)]
  omega

theorem rsv_formatR : (formatR op ua ub pe pd pa pb fn).extractLsb' 4 8 = 0 := by
  rw [← BitVec.toNat_inj, BitVec.extractLsb'_toNat, Nat.shiftRight_eq_div_pow, formatR_toNat hop (by omega)]
  change _ = 0
  omega

end

/-- A register field decides its bits. -/
theorem registerField_inj {n : Nat} {x y : BitVec n} (h : Fin.ofNat (2 ^ n) x.toNat = Fin.ofNat (2 ^ n) y.toNat) :
    x = y := by
  rw [Fin.ext_iff, Fin.val_ofNat, Fin.val_ofNat, Nat.mod_eq_of_lt x.isLt, Nat.mod_eq_of_lt y.isLt] at h
  exact BitVec.eq_of_toNat_eq h

/-- A word is format R of its own fields, where its RSV is 0 (R91). -/
theorem formatR_of_fields {w : Word} (hrsv : w.extractLsb' 4 8 = 0) :
    formatR (fieldOP w) (fieldUA w) (fieldUB w) (fieldPE w) (fieldPD w) (fieldPA w) (fieldPB w) (fieldFN w) = w := by
  have hop := fieldOP_lt w
  have hfn := fieldFN_lt w
  have hfn12 : fieldFN w < 2 ^ 12 := by omega
  refine (word_eq_iff_fields _ _).mpr ?_
  simp only [formatRFields, middleFields, List.forall_mem_cons, List.not_mem_nil, false_imp_iff, forall_const, and_true]
  exact ⟨BitVec.eq_of_toNat_eq (fieldOP_formatR hop hfn12 ..), BitVec.eq_of_toNat_eq (fieldFN_formatR hop hfn ..),
    registerField_inj (n := 3) (fieldUA_formatR hop hfn12 ..),
    registerField_inj (n := 3) (fieldUB_formatR hop hfn12 ..),
    registerField_inj (n := 2) (fieldPE_formatR hop hfn12 ..),
    registerField_inj (n := 2) (fieldPD_formatR hop hfn12 ..),
    registerField_inj (n := 2) (fieldPA_formatR hop hfn12 ..),
    registerField_inj (n := 2) (fieldPB_formatR hop hfn12 ..),
    (rsv_formatR hop hfn ..).trans hrsv.symm⟩

/-- A word is format M of its own fields, where its RSVM is 0 (R92). -/
theorem formatM_of_fields {w : Word} (hrsvm : w.extractLsb' 16 7 = 0) :
    formatM (fieldOP w) (fieldUA w) (fieldSLOT w) = w := by
  have hslot : fieldSLOT w < 65536 := (w.extractLsb' 0 16).isLt
  apply BitVec.eq_of_toNat_eq
  rw [formatM_toNat (fieldOP_lt w) hslot]
  simp only [← BitVec.toNat_inj, BitVec.extractLsb'_toNat, Nat.shiftRight_eq_div_pow, BitVec.ofNat_eq_ofNat,
    BitVec.toNat_ofNat] at hrsvm
  simp only [fieldOP, fieldUA, fieldSLOT, Fin.val_ofNat, BitVec.extractLsb'_toNat, Nat.shiftRight_eq_div_pow]
  omega

/-- The fields between OP and FN that a row's mask fixes are 0 in every word that fits the row (R94). -/
theorem Row.zero_of_fits {r : Row} (hr : r ∈ opcodeTable) {w : Word} (hfit : r.fits w = true) :
    ∀ f ∈ middleFields, r.mask.extractLsb' f.1 f.2 ≠ 0 → w.extractLsb' f.1 f.2 = 0 := by
  obtain ⟨hop, hzero, -⟩ := (Row.fits_iff hr w).mp hfit
  exact (zeroFieldsAreZero_iff_of_op hr hop).mp hzero

/-- A row fixes both FN and RSV, or neither of them but RSVM (R91, R92). -/
theorem opcodeTable_format : ∀ r ∈ opcodeTable,
    (r.mask.extractLsb' 0 4 ≠ 0 ∧ r.mask.extractLsb' 4 8 ≠ 0) ∨
    (r.mask.extractLsb' 0 4 = 0 ∧ r.mask.extractLsb' 20 3 ≠ 0 ∧ r.mask.extractLsb' 18 2 ≠ 0 ∧
      r.mask.extractLsb' 16 2 ≠ 0) := by decide

/-- A word that fits a row is format R of its fields with the row's OP and FN, or format M with the row's OP. -/
theorem Row.format_of_fits {r : Row} (hr : r ∈ opcodeTable) {w : Word} (hfit : r.fits w = true) :
    (r.mask.extractLsb' 0 4 ≠ 0 ∧ formatR (fieldOP r.pattern) (fieldUA w) (fieldUB w) (fieldPE w) (fieldPD w)
      (fieldPA w) (fieldPB w) (fieldFN r.pattern) = w) ∨
    (r.mask.extractLsb' 0 4 = 0 ∧ formatM (fieldOP r.pattern) (fieldUA w) (fieldSLOT w) = w) := by
  obtain ⟨hop, -, hfn⟩ := (Row.fits_iff hr w).mp hfit
  have hzero := Row.zero_of_fits hr hfit
  obtain ⟨hmask, hrsv⟩ | ⟨hmask, hub, hpe, hpd⟩ := opcodeTable_format r hr
  · rw [← hop, ← hfn.resolve_left hmask]
    exact .inl ⟨hmask, formatR_of_fields (hzero (4, 8) (by decide) hrsv)⟩
  · rw [← hop]
    exact .inr ⟨hmask, formatM_of_fields ((rsvm_eq_zero_iff w).mpr
      ⟨hzero (20, 3) (by decide) hub, hzero (18, 2) (by decide) hpe, hzero (16, 2) (by decide) hpd⟩)⟩

/-- What a row reads from a word that fits it encodes to the word: the operands are the fields that the row leaves free,
and the others are as the row fixes them. -/
theorem encode_build {r : Row} (hr : r ∈ opcodeTable) {w : Word} (hfit : r.fits w = true) :
    encode (r.build w) = w := by
  have hzero := Row.zero_of_fits hr hfit
  have hword := Row.format_of_fits hr hfit
  simp only [middleFields, List.forall_mem_cons, List.not_mem_nil, false_imp_iff, forall_const, and_true,
    ← fieldUA_eq_zero_iff, ← fieldUB_eq_zero_iff, ← fieldPE_eq_zero_iff, ← fieldPD_eq_zero_iff,
    ← fieldPA_eq_zero_iff, ← fieldPB_eq_zero_iff] at hzero
  clear hfit
  fin_cases hr
  all_goals
    simp only [ne_eq, BitVec.reduceExtractLsb', BitVec.reduceEq, BitVec.ofNat_eq_ofNat, not_true, not_false_eq_true,
      false_imp_iff, forall_const, true_and] at hzero
    simpa [encode, hzero, fieldOP, fieldFN] using hword

theorem fieldSLOT_lt (w : Word) : fieldSLOT w < 65536 := (w.extractLsb' 0 16).isLt

/-- SLOT is read from 16 bits, so every row reads a well-formed instruction (R97). -/
theorem build_wf {r : Row} (hr : r ∈ opcodeTable) (w : Word) : (r.build w).wf = true := by
  fin_cases hr <;> simp [Instr.wf, fieldSLOT_lt]

end Sys2Proof
end

section
/-! SUPPORT. The statements about the decoder and the encoder as a pair, and about the opcode table of 30_encoding.md,
settled. -/

namespace Sys2Proof.Machine

/-- Settles O24: the encoding of a well-formed instruction is its word. -/
theorem decodeOfEncode : Obligations.DecodeOfEncode := by
  intro i hwf
  obtain ⟨-, hdecode⟩ := isWordOf_encode_of_wf hwf
  exact hdecode

/-- Settles O25: a word that decodes fits a row, and what the row reads from it encodes to it. -/
theorem encodeOfDecode : Obligations.EncodeOfDecode := by
  intro w i hdecode
  obtain ⟨r, hr, hfit, rfl⟩ := exists_row_of_decode hdecode
  exact ⟨build_wf hr w, encode_build hr hfit⟩

/-- Settles O26: any two rows of the table fix some bit differently. -/
theorem opcodeRowsNeverOverlap : Obligations.OpcodeRowsNeverOverlap := by
  intro w r q hr hq hrfit hqfit
  have hsymm : Std.Symm fun r q : Row => r.pattern &&& q.mask ≠ q.pattern &&& r.mask := ⟨fun _ _ => Ne.symm⟩
  by_contra hne
  have hrows : r ≠ q := fun heq => hne (congrArg Row.mnemonic heq)
  exact opcodeTable_pairwise_disjoint.forall hr hq hrows (Row.patterns_agree hrfit hqfit)

/-- Settles O28: each word by the decoder's own search through the table. -/
theorem specWordsDecode : Obligations.SpecWordsDecode := by
  unfold Obligations.SpecWordsDecode
  decide

end Sys2Proof.Machine
end

section
/-! SUPPORT. Every instruction at once (R211 to R213): its checks report the first cause of R213, and what it commits
when none applies stays inside its row of R24 and R27. -/

namespace Sys2Proof.Machine

variable {s t : State} {i : Instr}

/-! ### The causes in the order of R213 -/

/-- The check of ALIAS (R102). -/
def aliasCheck : Instr → Bool
  | .add ua ub _ _ | .sub ua ub _ _ => decide (ua = ub)
  | _ => false

/-- The check of DMEM_RANGE (R97). -/
def State.slotCheck (s : State) : Instr → Bool
  | .ldbe _ slot | .stbe _ slot => s.slotOutside slot
  | _ => false

/-- The check of RECIP_PRECOND (R152, R153). -/
def State.precondCheck (s : State) : Instr → Bool
  | .recip ua ub => s.cfg.recipCheck && !s.recipValid ua ub
  | _ => false

theorem aliasCheck_iff (i : Instr) : aliasCheck i = true ↔ Aliased i := by
  cases i <;> simp [aliasCheck, Aliased]

theorem State.slotCheck_iff (s : State) (i : Instr) : s.slotCheck i = true ↔ SlotOutside s i := by
  cases i <;> simp [State.slotCheck, SlotOutside, State.slotOutside]

theorem State.precondCheck_iff (s : State) (i : Instr) : s.precondCheck i = true ↔ PrecondFails s i := by
  cases i with
  | recip ua ub =>
    rw [PrecondFails, ← recipOk_iff]
    simp [State.precondCheck]
  | _ => simp [State.precondCheck, PrecondFails]

/-- Only LDBE and STBE use a slot, and only RECIP has a precondition. -/
theorem State.precondCheck_of_slotCheck {s : State} {i : Instr} (h : s.slotCheck i = true) :
    s.precondCheck i = false := by
  cases i with
  | ldbe | stbe => rfl
  | _ => cases h

/-- The UNINIT checks of an instruction that reads the value registers `us` (R24). -/
def State.readChecks (s : State) (us : List UReg) : List (Bool × FaultCause) :=
  us.map fun r => (s.unwritten r, .uninit)

/-- Every check of the instruction with its cause, in the order of R213. -/
def State.causes (s : State) (i : Instr) : List (Bool × FaultCause) :=
  (aliasCheck i, .aliased) :: s.readChecks (readsU i) ++
    [(s.slotCheck i, .dmemRange), (s.precondCheck i, .recipPrecond)]

theorem State.firstFault_readChecks (s : State) (us : List UReg) :
    firstFault (s.readChecks us) = if ∀ r ∈ us, s.valid r = true then none else some .uninit := by
  induction us with
  | nil => simp [State.readChecks]
  | cons r us ih =>
    rw [State.readChecks, List.map_cons, firstFault_cons, ← State.readChecks, ih, State.unwritten]
    cases h : s.valid r <;> simp [h]

theorem State.firstFault_causes (s : State) (i : Instr) :
    firstFault (s.causes i) = if aliasCheck i then some .aliased
      else if ∀ r ∈ readsU i, s.valid r = true then
        if s.slotCheck i then some .dmemRange else if s.precondCheck i then some .recipPrecond else none
      else some .uninit := by
  rw [State.causes, List.cons_append, firstFault_cons, firstFault_append, s.firstFault_readChecks, firstFault_cons,
    firstFault_cons, firstFault_nil]
  split_ifs <;> rfl

theorem State.firstFault_causes_eq_none_iff : firstFault (s.causes i) = none ↔ NoCause s i := by
  rw [s.firstFault_causes, NoCause, ← aliasCheck_iff, ← s.slotCheck_iff, ← s.precondCheck_iff]
  split_ifs <;> grind

/-- Each cause is reported where none before it in the order applies; between DMEM_RANGE and RECIP_PRECOND there is no
order to keep, since no instruction has both checks. -/
theorem State.firstFault_causes_eq_some_iff {c : FaultCause} :
    firstFault (s.causes i) = some c ↔ ReportedCause s i c := by
  have hreads : (∃ r ∈ readsU i, s.valid r = false) ↔ ¬∀ r ∈ readsU i, s.valid r = true := by simp
  rw [s.firstFault_causes, ReportedCause, ← aliasCheck_iff, ← s.slotCheck_iff, ← s.precondCheck_iff, hreads]
  have hexclusive := State.precondCheck_of_slotCheck (s := s) (i := i)
  split_ifs <;> grind

/-- Which fault retirement takes depends on the first check that applies alone. -/
theorem State.retire_congr {checks checks' : List (Bool × FaultCause)} (effect : State)
    (h : firstFault checks = firstFault checks') : s.retire checks effect = s.retire checks' effect := by
  rw [State.retire, State.retire, h]

/-! ### What an instruction commits -/

/-- DMEM as the instruction leaves it: STBE stores its 32 bytes (R191). -/
def State.dmemAfter (s : State) : Instr → Memory 8
  | .stbe ua slot => (s.memWrite (slotAddress slot) 32 (s.readU ua).toNat).dmem
  | _ => s.dmem

/-- What the instruction leaves in `t` when no check applies, but for the values that it writes. -/
structure Completes (i : Instr) (s t : State) : Prop where
  values : KeepsU (writesU i) s t
  written : ∀ r ∈ writesU i, t.valid r = true
  predicates : KeepsE (writesE i) s t
  imem : t.imem = s.imem
  dmem : t.dmem = s.dmemAfter i
  hostSide : KeepsHostSide s t
  pc : t.pc = if i = .halt then s.pc else s.pc + 1
  run : t.run = if i = .halt then .halted else s.run
  faultCause : t.faultCause = s.faultCause
  faultPc : t.faultPc = s.faultPc
  faultInsn : t.faultInsn = s.faultInsn

theorem Completes.of_frame {a n : Nat} (h : Frame (writesU i) (writesE i) a n s t)
    (hwritten : ∀ r ∈ writesU i, t.valid r = true) (himem : t.imem = s.imem) (hdmem : t.dmem = s.dmemAfter i)
    (hpc : t.pc = s.pc + 1) (hi : i ≠ .halt) : Completes i s t where
  values := h.values
  written := hwritten
  predicates := h.predicates
  imem := himem
  dmem := hdmem
  hostSide := h.hostSide
  pc := by rw [if_neg hi, hpc]
  run := by rw [if_neg hi, h.run.run]
  faultCause := h.run.faultCause
  faultPc := h.run.faultPc
  faultInsn := h.run.faultInsn

/-- REPLACE checks the two registers in the other order, and its receiver only under a predicate that is not E0. -/
theorem State.firstFault_replaceChecks (s : State) (ua ub : UReg) (pe : EReg) :
    firstFault [(s.unwritten ub, .uninit), (decide (pe ≠ 0) && s.unwritten ua, .uninit)] =
      firstFault (s.causes (.replace ua ub pe)) := by
  simp only [State.causes, State.readChecks, readsU, aliasCheck, State.slotCheck, State.precondCheck]
  by_cases hpe : pe = 0
  · simp [hpe]
  · cases hb : s.valid ub <;> simp [State.unwritten, hpe, hb]

/-- Every instruction makes the checks of R213 in their order, and commits what R24 and R27 name. -/
theorem exec_eq_retire_causes (i : Instr) (s : State) : ∃ effect,
    exec i s = s.retire (s.causes i) effect ∧ Completes i s effect := by
  suffices h : ∃ checks effect, exec i s = s.retire checks effect ∧
      firstFault checks = firstFault (s.causes i) ∧ Completes i s effect by
    obtain ⟨checks, effect, hexec, hchecks, hcompletes⟩ := h
    exact ⟨effect, hexec.trans (State.retire_congr effect hchecks), hcompletes⟩
  cases i with
  | replace ua ub pe =>
    exact ⟨_, _, rfl, s.firstFault_replaceChecks ua ub pe,
      .of_frame (s.frame_writeU_advance ..) (by simp [writesU]) rfl rfl rfl nofun⟩
  | swap ua ub pe =>
    have hframe (x y : Value) : Frame [ua, ub] [] 0 0 s ((s.writeU ua x).writeU ub y).advance :=
      (((Frame.refl ..).writeU (by simp) x).writeU (by simp) y).advance
    exact ⟨_, _, rfl, rfl, .of_frame (hframe ..) (by simp [writesU]) rfl rfl rfl nofun⟩
  | add | sub | shl1 =>
    exact ⟨_, _, rfl, rfl, .of_frame (s.frame_writeU_writeE_advance ..) (by simp [writesU]) (by simp)
      (by simp [State.dmemAfter]) (by simp) nofun⟩
  | shr1 | ldbe =>
    exact ⟨_, _, rfl, rfl, .of_frame (s.frame_writeU_advance ..) (by simp [writesU]) rfl rfl rfl nofun⟩
  | recip ua ub =>
    obtain ⟨x, d, heffect⟩ := recipEffect_eq ua ub s
    have hframe := s.frame_writeU_advance ua x
    refine ⟨_, _, rfl, rfl, heffect ▸ ⟨hframe.values, by simp [writesU, State.valid], hframe.predicates, rfl, rfl, ?_,
      rfl, rfl, rfl, rfl, rfl⟩⟩
    exact ⟨rfl, rfl, rfl, rfl, rfl, rfl⟩
  | cmpEq | cmpNe | cmpLt | cmpLe | cmpGt | cmpGe | par =>
    exact ⟨_, _, rfl, rfl, .of_frame (s.frame_writeE_advance ..) nofun (by simp) (by simp [State.dmemAfter]) (by simp)
      nofun⟩
  | pand | por | pxor =>
    exact ⟨[], _, rfl, rfl, .of_frame (s.frame_writeE_advance ..) nofun (by simp) (by simp [State.dmemAfter]) (by simp)
      nofun⟩
  | ldcZero | ldcOne =>
    exact ⟨[], _, rfl, rfl, .of_frame (s.frame_writeU_advance ..) (by simp [writesU]) rfl rfl rfl nofun⟩
  | stbe ua slot =>
    exact ⟨_, _, rfl, rfl, .of_frame (s.frame_memWrite_advance ..) nofun (by simp) (by simp [State.dmemAfter])
      (by simp) nofun⟩
  | halt =>
    exact ⟨[], _, rfl, rfl, fun _ _ => ⟨rfl, rfl⟩, nofun, fun _ _ => rfl, rfl, rfl, (KeepsHostSide.refl s).haltRun,
      rfl, rfl, rfl, rfl, rfl⟩

/-- A cause that R213 reports is taken as a fault with the fetched word. -/
theorem exec_faults {c : FaultCause} (h : ReportedCause s i c) : exec i s = .next (s.takeFault c s.fetch) := by
  obtain ⟨effect, hexec, -⟩ := exec_eq_retire_causes i s
  exact hexec.trans (s.retire_faults effect (State.firstFault_causes_eq_some_iff.mpr h))

theorem exec_completes (h : NoCause s i) : ∃ t, exec i s = .next t ∧ Completes i s t := by
  obtain ⟨effect, hexec, hcompletes⟩ := exec_eq_retire_causes i s
  exact ⟨effect, hexec.trans (s.retire_commits effect (State.firstFault_causes_eq_none_iff.mpr h)), hcompletes⟩

/-- All that an instruction can do: take the fault of the cause that R213 reports, or complete with no cause. -/
theorem exec_cases (h : exec i s = .next t) :
    (∃ c, ReportedCause s i c ∧ t = s.takeFault c s.fetch) ∨ (NoCause s i ∧ Completes i s t) := by
  cases hfirst : firstFault (s.causes i) with
  | some c =>
    have hreported := State.firstFault_causes_eq_some_iff.mp hfirst
    cases h.symm.trans (exec_faults hreported)
    exact .inl ⟨c, hreported, rfl⟩
  | none =>
    have hnone := State.firstFault_causes_eq_none_iff.mp hfirst
    obtain ⟨t', hexec, hcompletes⟩ := exec_completes hnone
    cases h.symm.trans hexec
    exact .inr ⟨hnone, hcompletes⟩

/-! ### What no instruction and no turn changes -/

theorem exec_imem (h : exec i s = .next t) : t.imem = s.imem := by
  obtain ⟨c, -, rfl⟩ | ⟨-, hcompletes⟩ := exec_cases h
  · rfl
  · exact hcompletes.imem

/-- No instruction writes IMEM, and neither does fault entry (R78). -/
theorem sequence_imem (h : sequence s = .next t) : t.imem = s.imem := by
  obtain ⟨-, rfl⟩ | ⟨-, -, rfl⟩ | ⟨-, -, -, rfl⟩ | ⟨-, -, i, -, hexec⟩ := sequence_cases h
  · rfl
  · rfl
  · rfl
  · exact exec_imem hexec

theorem KeepsDmemOutside.of_dmem_eq (hdmem : t.dmem = s.dmem) (hpowerOns : t.powerOns = s.powerOns) (a n : Nat) :
    KeepsDmemOutside a n s t :=
  fun c _ => State.dmemByte_congr hdmem hpowerOns c

theorem Completes.keepsImem (h : Completes i s t) : KeepsImem s t :=
  State.imemWord_congr h.imem h.hostSide.powerOns

/-- STBE changes the bytes of its slot alone (R191). -/
theorem Completes.keepsDmem_stbe {ua : UReg} {slot : Nat} (h : Completes (.stbe ua slot) s t) :
    KeepsDmemOutside (slotAddress slot) 32 s t := by
  intro c hc
  have hdmem := h.dmem
  rw [State.dmemAfter] at hdmem
  rw [State.dmemByte_congr hdmem (h.hostSide.powerOns.trans (s.memWrite_powerOns ..).symm)]
  exact s.memWrite_keeps _ _ _ c hc

/-- No step changes the parameters: neither the sequencer nor a host access nor a reset (R10). -/
theorem step_cfg (h : step s = .next t) : t.cfg = s.cfg := by
  obtain ⟨s', hturn, hseq⟩ | ⟨rest, -, rfl⟩ | ⟨addr, rest, -, -, -, rfl⟩ | ⟨addr, w, rest, -, -, -, rfl⟩ :=
    step_cases h
  · exact (sequence_keepsHostSide hseq).cfg.trans hturn.cfg
  · rfl
  · rfl
  · exact State.hostWrite_cfg ..

end Sys2Proof.Machine
end

section
/-! SUPPORT. The statements about every instruction and every turn of 60_exceptions.md and 10_state.md, settled. -/

namespace Sys2Proof.Machine

/-- Settles O19: the checks of every instruction stand in the order of R213, and what it commits is its effect. -/
theorem instructionsFaultOrComplete : Obligations.InstructionsFaultOrComplete := by
  refine ⟨fun i s c hreported => ⟨_, exec_faults hreported, s.takeFault_enters c s.fetch⟩, fun i s hnone => ?_⟩
  obtain ⟨t, hexec, hcompletes⟩ := exec_completes hnone
  exact ⟨t, hexec, hcompletes.pc, hcompletes.run, hcompletes.faultCause, hcompletes.faultPc, hcompletes.faultInsn,
    hcompletes.written⟩

/-- Settles O20: retirement answers on both sides of the checks. -/
theorem everyInstructionAnswersNext : Obligations.EveryInstructionAnswersNext := exec_answers

/-- Settles O21: a fault changes none of it, and an instruction that completes only what its row names. -/
theorem everyInstructionKeepsItsFrame : Obligations.EveryInstructionKeepsItsFrame := by
  intro i s t h
  have hhostSide := exec_keepsHostSide h
  obtain ⟨c, -, rfl⟩ | ⟨-, hcompletes⟩ := exec_cases h
  · refine ⟨fun _ _ => ⟨rfl, rfl⟩, fun _ _ => rfl, fun _ => rfl, hhostSide, ?_⟩
    split <;> exact fun _ _ => rfl
  · refine ⟨hcompletes.values, hcompletes.predicates, hcompletes.keepsImem, hhostSide, ?_⟩
    cases i with
    | stbe ua slot => exact hcompletes.keepsDmem_stbe
    | _ => exact .of_dmem_eq hcompletes.dmem hhostSide.powerOns 0 0

/-- Settles O22: a turn runs an instruction or enters a fault, and neither writes IMEM. -/
theorem sequencerNeverWritesImem : Obligations.SequencerNeverWritesImem := by
  intro s s' t hturn h
  rw [hturn.step_eq] at h
  obtain ⟨rest, rfl⟩ := hturn.eq_withHost
  have himem := sequence_imem h
  exact ⟨himem, State.imemWord_congr himem (sequence_keepsHostSide h).powerOns⟩

/-- Settles O31: PC_RANGE and ILLEGAL are the turn's own, and the causes after them the decoded instruction's (O19). -/
theorem stepReportsFirstCause : Obligations.StepReportsFirstCause := by
  intro s s' hturn hrun
  rw [hturn.step_eq]
  obtain ⟨rest, rfl⟩ := hturn.eq_withHost
  refine ⟨fun hpc => ⟨_, sequence_pcRange hrun hpc, State.takeFault_enters ..⟩,
    fun e hpc hdecode => ⟨_, sequence_illegal hrun hpc ⟨e, hdecode⟩, State.takeFault_enters ..⟩,
    fun i c hpc hdecode hreported => ⟨_, ?_, State.takeFault_enters ..⟩⟩
  exact (sequence_decoded (s := { s with host := rest }) hrun hpc hdecode).trans (exec_faults hreported)

/-- Settles O32: the turn of a unit that is not RUNNING is its own state. -/
theorem stoppedUnitKeepsItsState : Obligations.StoppedUnitKeepsItsState := by
  intro s s' hturn hstop
  rw [hturn.step_eq]
  exact sequence_stopped (hturn.run ▸ hstop)

/-- Settles O39: each kind of step by itself. -/
theorem stepKeepsInstance : Obligations.StepKeepsInstance := fun _ _ => step_cfg

end Sys2Proof.Machine
end

section
/-! SUPPORT. Legal states (R30, R33, R44, R46 to R48): each operation that can end a step keeps the invariant, under
what its caller has checked. -/

namespace Sys2Proof.Machine

variable {s t : State} {i : Instr}

/-! ### Resets, and the run's start and acknowledgement -/

/-- SOFT_RESET leaves a legal state wherever the parameters and the memories are as R9 has them (R241). -/
theorem State.softReset_legal (hcfg : s.cfg.wf = true) (himemWf : Memory.wf s.imem = true)
    (himemWithin : Memory.within s.imem s.imemWords = true) (hdmemWf : Memory.wf s.dmem = true)
    (hdmemWithin : Memory.within s.dmem s.dmemBytes = true) : Legal s.softReset where
  cfg := hcfg
  imemWf := himemWf
  imemWithin := himemWithin
  dmemWf := hdmemWf
  dmemWithin := hdmemWithin
  pcRange := Nat.zero_le _
  startRange := s.imemWords_pos
  faultPcRange := Nat.zero_le _
  runningStart := nofun
  runningClear := nofun
  haltedClear := nofun
  faultedCause := nofun
  clearRecord _ := ⟨rfl, rfl⟩
  pcRangeRecord := ⟨nofun, fun hzero => absurd hzero s.imemWords_pos.ne⟩
  pcRangeInsn := nofun

theorem Legal.softReset (h : Legal s) : Legal s.softReset :=
  State.softReset_legal h.cfg h.imemWf h.imemWithin h.dmemWf h.dmemWithin

theorem Legal.hardReset (h : Legal s) : Legal s.hardReset :=
  { h.softReset with imemWf := rfl, imemWithin := rfl, dmemWf := rfl, dmemWithin := rfl }

theorem Legal.startRun (h : Legal s) : Legal s.startRun where
  cfg := h.cfg
  imemWf := h.imemWf
  imemWithin := h.imemWithin
  dmemWf := h.dmemWf
  dmemWithin := h.dmemWithin
  pcRange := h.startRange.le
  startRange := h.startRange
  faultPcRange := Nat.zero_le _
  runningStart _ := le_rfl
  runningClear _ := rfl
  haltedClear := nofun
  faultedCause := nofun
  clearRecord _ := ⟨rfl, rfl⟩
  pcRangeRecord := ⟨nofun, fun hzero => absurd hzero s.imemWords_pos.ne⟩
  pcRangeInsn := nofun

theorem Legal.acknowledge (h : Legal s) : Legal s.acknowledge :=
  { h with runningStart := nofun, runningClear := nofun, haltedClear := nofun, faultedCause := nofun }

/-! ### The ends of a run -/

/-- Fault entry keeps the invariant if it records PC_RANGE, with word 0, exactly at PC = IMEM_WORDS (R211). -/
theorem Legal.takeFault (h : Legal s) {c : FaultCause} {w : Word} (hcause : c ≠ .noFault)
    (hrange : c = .pcRange ↔ s.pc = s.imemWords) (hinsn : c = .pcRange → w = 0) : Legal (s.takeFault c w) :=
  { h with
    faultPcRange := h.pcRange
    runningStart := nofun
    runningClear := nofun
    haltedClear := nofun
    faultedCause := fun _ => ⟨hcause, rfl⟩
    clearRecord := fun hclear => absurd hclear hcause
    pcRangeRecord := hrange
    pcRangeInsn := hinsn }

/-- A cause that R213 reports for an instruction is neither none nor PC_RANGE, so its fault inside IMEM keeps the
invariant. -/
theorem Legal.takeReported (h : Legal s) {c : FaultCause} (hreported : ReportedCause s i c)
    (hpc : s.pc < s.imemWords) : Legal (s.takeFault c s.fetch) := by
  obtain ⟨-, rfl⟩ | ⟨-, -, rfl⟩ | ⟨-, -, -, rfl⟩ | ⟨-, -, -, rfl⟩ := hreported
  all_goals exact h.takeFault nofun ⟨nofun, fun heq => absurd heq hpc.ne⟩ nofun

/-! ### The memories -/

theorem Legal.memWrite (h : Legal s) {a n x : Nat} (hrange : a + n ≤ s.dmemBytes) : Legal (s.memWrite a n x) :=
  { h with
    dmemWf := Memory.wf_storeBE n h.dmemWf a x
    dmemWithin := Memory.within_storeBE n h.dmemWithin a x hrange }

theorem Legal.imemWrite (h : Legal s) {j : Nat} {w : Word} (hrange : j < s.imemWords) : Legal (s.imemWrite j w) :=
  { h with
    imemWf := Memory.wf_store h.imemWf j w
    imemWithin := Memory.within_store h.imemWithin hrange w }

/-- STBE's slot is inside DMEM, and no other instruction writes there. -/
theorem Legal.dmemAfter (h : Legal s) (hnone : NoCause s i) :
    Memory.wf (s.dmemAfter i) = true ∧ Memory.within (s.dmemAfter i) s.dmemBytes = true := by
  cases i with
  | stbe ua slot =>
    obtain ⟨-, -, (hslot : ¬s.dmemSlots ≤ slot), -⟩ := hnone
    have hrange : slotAddress slot + 32 ≤ s.dmemBytes := by
      unfold slotAddress State.dmemBytes
      omega
    rw [State.dmemAfter, s.memWrite_dmem]
    exact ⟨Memory.wf_storeBE 32 h.dmemWf _ _, Memory.within_storeBE 32 h.dmemWithin _ _ hrange⟩
  | _ => exact ⟨h.dmemWf, h.dmemWithin⟩

/-! ### The sequencer's turn -/

/-- An instruction that completes inside IMEM moves PC up to IMEM_WORDS at most, or ends the run at its own index. -/
theorem Completes.legal (h : Completes i s t) (hlegal : Legal s) (hrun : s.run = .running) (hpc : s.pc < s.imemWords)
    (hnone : NoCause s i) : Legal t := by
  have hcfg := h.hostSide.cfg
  have hwords : t.imemWords = s.imemWords := State.imemWords_congr hcfg
  have hbytes : t.dmemBytes = s.dmemBytes := by simp [State.dmemBytes, State.dmemSlots, hcfg]
  have hclear : t.faultCause = .noFault := h.faultCause.trans (hlegal.runningClear hrun)
  have hstart := hlegal.runningStart hrun
  obtain ⟨hdmemWf, hdmemWithin⟩ := hlegal.dmemAfter hnone
  obtain ⟨hpcLow, hpcHigh⟩ : s.pc ≤ t.pc ∧ t.pc ≤ s.imemWords := by
    rw [h.pc]
    split_ifs <;> omega
  exact {
    cfg := hcfg ▸ hlegal.cfg
    imemWf := h.imem ▸ hlegal.imemWf
    imemWithin := by rw [h.imem, hwords, hlegal.imemWithin]
    dmemWf := h.dmem ▸ hdmemWf
    dmemWithin := by rw [h.dmem, hbytes, hdmemWithin]
    pcRange := hwords ▸ hpcHigh
    startRange := by rw [h.hostSide.startPc, hwords]; exact hlegal.startRange
    faultPcRange := by rw [h.faultPc, hwords]; exact hlegal.faultPcRange
    runningStart := fun _ => by rw [h.hostSide.startPc]; exact hstart.trans hpcLow
    runningClear := fun _ => hclear
    haltedClear := fun hhalted => ⟨hclear, by
      have hhalt : i = .halt := by
        by_contra hne
        rw [h.run, if_neg hne, hrun] at hhalted
        cases hhalted
      rwa [h.pc, if_pos hhalt, hwords]⟩
    faultedCause := fun hfaulted => by
      rw [h.run] at hfaulted
      split_ifs at hfaulted
      rw [hrun] at hfaulted
      cases hfaulted
    clearRecord := by rw [h.faultCause, h.faultPc, h.faultInsn]; exact hlegal.clearRecord
    pcRangeRecord := by rw [h.faultCause, h.faultPc, hwords]; exact hlegal.pcRangeRecord
    pcRangeInsn := by rw [h.faultCause, h.faultInsn]; exact hlegal.pcRangeInsn }

theorem Legal.sequence (h : Legal s) (hseq : sequence s = .next t) : Legal t := by
  obtain ⟨-, rfl⟩ | ⟨-, hpc, rfl⟩ | ⟨-, hpc, -, rfl⟩ | ⟨hrun, hpc, i, -, hexec⟩ := sequence_cases hseq
  · exact h
  · exact h.takeFault nofun ⟨fun _ => h.pcRange.antisymm hpc, fun _ => rfl⟩ fun _ => rfl
  · exact h.takeFault nofun ⟨nofun, fun heq => absurd heq hpc.ne⟩ nofun
  · obtain ⟨c, hreported, rfl⟩ | ⟨hnone, hcompletes⟩ := exec_cases hexec
    · exact h.takeReported hreported hpc
    · exact hcompletes.legal h hrun hpc hnone

/-! ### The host's writes -/

theorem Legal.writeCtrl (h : Legal s) (w : Word) : Legal (s.writeCtrl w) := by
  unfold State.writeCtrl
  split_ifs
  · exact h.softReset
  · exact { h.startRun with }
  · exact { h with }

theorem Legal.writeStatus (h : Legal s) (w : Word) : Legal (s.writeStatus w) := by
  unfold State.writeStatus
  split_ifs
  exacts [h.acknowledge, h.acknowledge, h]

/-- START_PC can only be written where no run has started from it (R44). -/
theorem Legal.writeStartPc (h : Legal s) (w : Word) : Legal (s.writeStartPc w) := by
  unfold State.writeStartPc
  split_ifs with hrun
  · exact h
  · exact { h with
      startRange := Nat.mod_lt _ s.imemWords_pos
      runningStart := fun hrunning => absurd hrunning hrun }

theorem Legal.writeDmemWindow (h : Legal s) {b : Nat} (hal : b % 4 = 0) (w : Word) :
    Legal (s.writeDmemWindow b w) := by
  unfold State.writeDmemWindow
  split_ifs with _ hrange
  · exact h
  · refine h.memWrite ?_
    unfold State.dmemBytes at hrange ⊢
    omega
  · exact h

theorem Legal.writeImemWindow (h : Legal s) (j : Nat) (w : Word) : Legal (s.writeImemWindow j w) := by
  unfold State.writeImemWindow
  split_ifs with _ hrange
  exacts [h, h.imemWrite hrange, h]

theorem Legal.hostWrite (h : Legal s) {off : Nat} (hal : off % 4 = 0) (w : Word) : Legal (s.hostWrite off w) := by
  unfold State.hostWrite State.writeControl
  split_ifs
  · exact h.writeCtrl w
  · exact h.writeStatus w
  · exact h.writeStartPc w
  · exact h
  · exact h.writeDmemWindow (by omega) w
  · exact h.writeImemWindow _ w
  · exact h

/-! ### The step -/

/-- BASE is aligned, so an aligned address of the unit is an aligned offset (R36). -/
theorem State.offset_aligned (s : State) {addr : Nat} (hal : addr % 4 = 0) : (addr - s.base) % 4 = 0 := by
  have hbase : s.base % 4 = 0 := by
    unfold State.base
    omega
  omega

theorem Legal.step (h : Legal s) (hstep : step s = .next t) : Legal t := by
  obtain ⟨s', hturn, hseq⟩ | ⟨rest, -, rfl⟩ | ⟨addr, rest, -, -, -, rfl⟩ | ⟨addr, w, rest, -, hal, -, rfl⟩ :=
    step_cases hstep
  · obtain ⟨rest, rfl⟩ := hturn.eq_withHost
    exact Legal.sequence (s := { s with host := rest }) { h with } hseq
  · exact Legal.hardReset { h with }
  · exact { h with }
  · exact Legal.hostWrite (s := { s with host := rest }) { h with } (s.offset_aligned hal) w

end Sys2Proof.Machine
end

section
/-! SUPPORT. The statements about the invariant and the reset state of 10_state.md, settled. -/

namespace Sys2Proof.Machine

/-- Settles O37: the invariant through each kind of step. -/
theorem stepKeepsLegal : Obligations.StepKeepsLegal := fun _ _ h hstep => h.step hstep

/-- Settles O38: the reset state is its own SOFT_RESET, and empty memories are inside any size. -/
theorem resetIsLegal : Obligations.ResetIsLegal := State.softReset_legal (s := State.reset) rfl rfl rfl rfl rfl

/-- Settles O40: each register of the one reset state. -/
theorem resetStateValues : Obligations.ResetStateValues := by
  refine ⟨⟨?valid, rfl, rfl, rfl, rfl, rfl, rfl, rfl, rfl, rfl, rfl, rfl, rfl⟩, ?status, rfl, rfl⟩
  case valid => decide
  case status => decide

end Sys2Proof.Machine
end

section
/-! SUPPORT. The resets (R240, R241), the IRQ output (R220), and the reads of CTRL, PC and the fault record (R42, R45 to
R48). -/

namespace Sys2Proof.Machine

variable {s t : State}

/-! ### Resets -/

/-- The registers that a SOFT_RESET leaves, IRQ among them (R51). -/
theorem State.softReset_registers (s : State) : ResetRegisters s.softReset :=
  ⟨s.valid_softReset, rfl, rfl, rfl, rfl, rfl, rfl, rfl, rfl, rfl, rfl, rfl, rfl⟩

theorem State.hardReset_registers (s : State) : ResetRegisters s.hardReset :=
  ⟨s.valid_softReset, rfl, rfl, rfl, rfl, rfl, rfl, rfl, rfl, rfl, rfl, rfl, rfl⟩

/-- What SOFT_RESET leaves depends on what it keeps alone (R241). -/
theorem SameAcrossReset.softReset_eq (h : SameAcrossReset s t) : t.softReset = s.softReset := by
  simp [State.softReset, h.cfg, h.imem, h.dmem, h.powerOns, h.draws, h.host, h.hostData]

/-- The write to CTRL with SOFT_RESET = 1 (R42). -/
theorem hostWrites_softReset (s : State) {w : Word} (h : w.getLsbD 1 = true) :
    hostWrites s 0x010 w = .next s.softReset := by
  rw [hostWrites_eq s w (by omega) (by omega), s.hostWrite_ctrl, State.writeCtrl_softReset h]

theorem step_hardReset (s : State) : step { s with host := .hardReset :: s.host } = .next s.hardReset :=
  step_of_host (act := .hardReset) rfl nofun

/-! ### The IRQ output -/

theorem State.irq_iff (s : State) : s.irq = true ↔ s.irqEn = true ∧ (s.run = .halted ∨ s.run = .faulted) := by
  simp [State.irq]

/-- A write to CTRL that neither starts nor resets stores IRQ_EN and nothing else (R42). -/
theorem State.writeCtrl_irqEn {w : Word} (hstart : w.getLsbD 0 = false) (hreset : w.getLsbD 1 = false) :
    s.writeCtrl w = { s with irqEn := w.getLsbD 2 } := by
  rw [State.writeCtrl, hstart, hreset]
  rfl

/-- START and SOFT_RESET leave the unit RUNNING or IDLE, and IRQ with neither (R220). -/
theorem State.writeCtrl_irq {w : Word} (h : w.getLsbD 0 = true ∨ w.getLsbD 1 = true) : (s.writeCtrl w).irq = false := by
  cases hreset : w.getLsbD 1 with
  | true => rw [State.writeCtrl_softReset hreset, s.softReset_registers.irq]
  | false =>
    have hstart : w.getLsbD 0 = true := h.resolve_right (Bool.eq_false_iff.mp hreset)
    by_cases hrun : s.run = .running
    · simp [State.writeCtrl_running hreset hrun, State.irq, hrun]
    · simp [State.writeCtrl_starts hstart hreset hrun, State.irq]

/-- CTRL, bit by bit: IRQ_EN is bit 2, and the others read 0 (R42). -/
theorem State.regCtrl_getLsbD (s : State) (k : Nat) : s.regCtrl.getLsbD k = (decide (k = 2) && s.irqEn) := by
  have hword : s.regCtrl = if s.irqEn then BitVec.twoPow 32 2 else 0 := by
    rw [State.regCtrl]
    cases s.irqEn <;> rfl
  cases h : s.irqEn <;> simp [hword, h, BitVec.getLsbD_twoPow, eq_comm]

/-! ### Indices as fields of IMEM_LOG2 + 1 bits -/

/-- An index up to IMEM_WORDS fits its field (R45, R47). -/
theorem State.regIndex_toNat {j : Nat} (hwf : s.cfg.wf = true) (hj : j ≤ s.imemWords) : (s.regIndex j).toNat = j := by
  have hwords := State.imemWords_le_of_wf hwf
  have hfield : 2 ^ (s.cfg.imemLog2 + 1) = 2 * s.imemWords := by rw [State.imemWords, Nat.pow_succ, Nat.mul_comm]
  have hpos := s.imemWords_pos
  rw [State.regIndex, hfield, Nat.mod_eq_of_lt (by omega), BitVec.toNat_ofNat]
  omega

@[simp] theorem State.hostRead_ctrl (s : State) : s.hostRead 0x010 = s.regCtrl := rfl
@[simp] theorem State.hostRead_pc (s : State) : s.hostRead 0x01C = s.regIndex s.pcSeen := rfl
@[simp] theorem State.hostRead_faultCause (s : State) :
    s.hostRead 0x020 = BitVec.ofNat 32 (causeCode s.faultCause) := rfl
@[simp] theorem State.hostRead_faultPc (s : State) : s.hostRead 0x024 = s.regIndex s.faultPc := rfl
@[simp] theorem State.hostRead_faultInsn (s : State) : s.hostRead 0x028 = s.faultInsn := rfl

theorem State.pcSeen_stopped (hrun : s.run ≠ .running) : s.pcSeen = s.pc := by rw [State.pcSeen, if_neg hrun]

/-- While RUNNING the free choice falls on an index from START_PC to PC (R45). -/
theorem State.pcSeen_running (hrun : s.run = .running) (hstart : s.startPc ≤ s.pc) :
    s.startPc ≤ s.pcSeen ∧ s.pcSeen ≤ s.pc := by
  have hchoice := Nat.mod_lt (Config.drawIndex s.draws) (show 0 < s.pc - s.startPc + 1 by omega)
  rw [State.pcSeen, if_pos hrun]
  omega

/-! ### The windows while RUNNING -/

/-- While RUNNING neither window answers a read (R50, R75). -/
theorem State.hostRead_window_running (hrun : s.run = .running) {off : Nat} (hlow : 0x1000 ≤ off)
    (hhigh : off < 0x3000) : s.hostRead off = 0 := by
  by_cases h : off < 0x2000
  · rw [s.hostRead_dmemWindow hlow h, State.readDmemWindow, if_pos hrun]
  · rw [s.hostRead_imemWindow (by omega) hhigh, State.readImemWindow, if_pos hrun]

theorem State.hostWrite_window_running (hrun : s.run = .running) {off : Nat} (w : Word) (hlow : 0x1000 ≤ off)
    (hhigh : off < 0x3000) : s.hostWrite off w = s := by
  by_cases h : off < 0x2000
  · rw [s.hostWrite_dmemWindow w hlow h, State.writeDmemWindow, if_pos hrun]
  · rw [s.hostWrite_imemWindow w (by omega) hhigh, State.writeImemWindow, if_pos hrun]

end Sys2Proof.Machine
end

section
/-! SUPPORT. The statements about resets, IRQ and the host's reads and writes of 10_state.md, 60_exceptions.md and
70_reset_and_hazards.md, settled. -/

namespace Sys2Proof.Machine

/-- Settles O41: SOFT_RESET is the whole write, and a hardware reset the whole step. -/
theorem resetsReachResetValues : Obligations.ResetsReachResetValues := by
  refine ⟨fun s w hreset _ => ⟨s.softReset, hostWrites_softReset s hreset, s.softReset_registers, rfl,
      fun a _ => s.dmemByte_softReset a, s.imemWord_softReset, rfl, rfl, rfl, rfl⟩,
    fun s => ⟨s.hardReset, step_hardReset s, s.hardReset_registers, rfl, rfl, fun _ => rfl, fun _ => rfl, rfl⟩⟩

/-- Settles O42: both states are the one that SOFT_RESET leaves. -/
theorem softResetErasesSecrets : Obligations.SoftResetErasesSecrets := by
  intro s t w hsame hreset
  exact ⟨s.softReset, hostWrites_softReset s hreset, hsame.softReset_eq ▸ hostWrites_softReset t hreset⟩

/-- Settles O54: the output is IRQ_EN and the run state, and each event is a write or an instruction that changes one
of them. -/
theorem irqFollowsTheRunState : Obligations.IrqFollowsTheRunState := by
  refine ⟨State.irq_iff, fun i s t h hrun => ?instruction, fun s w hstart hreset => ?enable,
    fun s w hrun hdone hfault => ?acknowledge, fun s w h => ?control, fun s => ?reads⟩
  case instruction =>
    have hended : (decide (t.run = .halted) || decide (t.run = .faulted)) = true := by simpa using hrun
    rw [State.irq, hended, Bool.and_true, (exec_keepsHostSide h).irqEn]
  case enable =>
    refine ⟨{ s with irqEn := w.getLsbD 2 }, ?_, State.irq_iff _⟩
    rw [hostWrites_eq s w (by omega) (by omega), s.hostWrite_ctrl, State.writeCtrl_irqEn hstart hreset]
  case acknowledge =>
    have hclears : s.ClearsStatus w := hrun.imp (⟨·, hdone⟩) (⟨·, hfault⟩)
    refine ⟨s.acknowledge, ?_, by simp [State.irq]⟩
    rw [hostWrites_eq s w (by omega) (by omega), s.hostWrite_status, State.writeStatus_clears hclears]
  case control =>
    refine ⟨s.writeCtrl w, ?_, State.writeCtrl_irq h⟩
    rw [hostWrites_eq s w (by omega) (by omega), s.hostWrite_ctrl]
  case reads =>
    rw [readGives_iff s _ (by omega) (by omega), s.hostRead_ctrl]
    exact ⟨s.regCtrl_getLsbD 2, fun k hk => by rw [s.regCtrl_getLsbD, decide_eq_false hk, Bool.false_and]⟩

/-- Settles O48: the index that is read fits its field, and the free choice stays between START_PC and PC. -/
theorem pcReadIsAnIndexReached : Obligations.PcReadIsAnIndexReached := by
  refine fun s hwf hpc => ⟨fun hstop => ?stopped, fun hrun hstart => ?running⟩
  case stopped =>
    rw [readGives_iff s _ (by omega) (by omega), s.hostRead_pc, State.pcSeen_stopped hstop,
      State.regIndex_toNat hwf hpc]
  case running =>
    obtain ⟨hlow, hhigh⟩ := State.pcSeen_running hrun hstart
    rw [readGives_iff s _ (by omega) (by omega), s.hostRead_pc, State.regIndex_toNat hwf (hhigh.trans hpc)]
    exact ⟨hlow, hhigh⟩

/-- Settles O47: each register by its offset; the codes are those of R211. -/
theorem faultRegistersReadBack : Obligations.FaultRegistersReadBack := by
  refine fun s hwf hpc => ⟨?cause, ?pc, ?insn⟩
  case cause =>
    rw [readGives_iff s _ (by omega) (by omega), s.hostRead_faultCause]
    cases s.faultCause <;> rfl
  case pc => rw [readGives_iff s _ (by omega) (by omega), s.hostRead_faultPc, State.regIndex_toNat hwf hpc]
  case insn => rw [readGives_iff s _ (by omega) (by omega), s.hostRead_faultInsn]

/-- Settles O51: the run state is the first check of each window and of each of the two registers. -/
theorem busyUnitLocksTheHostOut : Obligations.BusyUnitLocksTheHostOut := by
  refine fun s off w hrun hal => ⟨fun hlow hhigh => ⟨?reads, ?writes⟩, ?registers⟩
  case reads => exact (readGives_iff s _ (by omega) hal).mpr (State.hostRead_window_running hrun hlow hhigh)
  case writes => rw [hostWrites_eq s w (by omega) hal, State.hostWrite_window_running hrun w hlow hhigh]
  case registers =>
    rintro (rfl | rfl)
    · rw [hostWrites_eq s w (by omega) hal, s.hostWrite_status,
        State.writeStatus_inert (by simp [State.ClearsStatus, hrun])]
    · rw [hostWrites_eq s w (by omega) hal, s.hostWrite_startPc, State.writeStartPc_running w hrun]

/-- Settles O52: the read is one step that leaves its data and counts a draw. -/
theorem hostReadsHaveNoSideEffect : Obligations.HostReadsHaveNoSideEffect :=
  fun s _ hoff hal => ⟨_, hostReads_eq s hoff hal, rfl⟩

end Sys2Proof.Machine
end

section
/-! SUPPORT. Another bit pattern in a register with V = 0 (R23, R51): each operation of an instruction and each host
access does the same with both patterns, up to the pattern itself while the register is still unwritten. -/

namespace Sys2Proof.Machine

variable {s t t' : State} {r : UReg} {x : Value}

/-! ### What the pattern is no part of -/

namespace State

variable (s : State) (r : UReg) (x : Value)

theorem withPattern_readU_of_ne {q : UReg} (h : q ≠ r) : (s.withPattern r x).readU q = s.readU q := by
  have hne : r.val ≠ q.val := fun heq => h (Fin.ext heq.symm)
  simp [withPattern, readU, hne]

/-- A register that is written does not have the pattern. -/
theorem withPattern_readU_of_valid {q : UReg} (hr : s.valid r = false) (hq : s.valid q = true) :
    (s.withPattern r x).readU q = s.readU q := by
  refine s.withPattern_readU_of_ne r x fun heq => ?_
  rw [heq, hr] at hq
  cases hq

theorem withPattern_memRead (a n : Nat) : (s.withPattern r x).memRead a n = s.memRead a n :=
  memRead_congr n fun _ _ _ => rfl

theorem withPattern_slotValue (slot : Nat) : (s.withPattern r x).slotValue slot = s.slotValue slot := by
  rw [slotValue, withPattern_memRead, slotValue]

/-- No host read returns the pattern: the interface has no value register (R36, R37). -/
theorem withPattern_hostRead (off : Nat) : (s.withPattern r x).hostRead off = s.hostRead off := by
  have hdmem (b : Nat) : (s.withPattern r x).readDmemWindow b = s.readDmemWindow b := by
    rw [readDmemWindow, withPattern_memRead]
    rfl
  rw [hostRead, hdmem]
  rfl

end State

/-! ### States that differ in the pattern -/

/-- The two are one state, or the second is the first with the pattern while the register is unwritten. -/
def UpToPattern (r : UReg) (x : Value) (t t' : State) : Prop :=
  t' = t ∨ (t.valid r = false ∧ t' = t.withPattern r x)

namespace UpToPattern

/-- What maps a state with the pattern to its image with the pattern, and writes no valid bit, keeps the relation. -/
theorem map {f : State → State} (h : UpToPattern r x t t')
    (hvalid : ∀ s : State, (f s).valid r = s.valid r)
    (hpattern : ∀ s : State, f (s.withPattern r x) = (f s).withPattern r x) : UpToPattern r x (f t) (f t') := by
  obtain rfl | ⟨hr, rfl⟩ := h
  · exact .inl rfl
  · exact .inr ⟨(hvalid t).trans hr, hpattern t⟩

theorem advance (h : UpToPattern r x t t') : UpToPattern r x t.advance t'.advance :=
  h.map (fun _ => rfl) fun _ => rfl

theorem countDraw (h : UpToPattern r x t t') : UpToPattern r x t.countDraw t'.countDraw :=
  h.map (fun _ => rfl) fun _ => rfl

theorem haltRun (h : UpToPattern r x t t') : UpToPattern r x t.haltRun t'.haltRun :=
  h.map (fun _ => rfl) fun _ => rfl

theorem takeFault (h : UpToPattern r x t t') (c : FaultCause) (w : Word) :
    UpToPattern r x (t.takeFault c w) (t'.takeFault c w) :=
  h.map (f := (·.takeFault c w)) (fun _ => rfl) fun _ => rfl

theorem memWrite (h : UpToPattern r x t t') {a n v v' : Nat} (hv : v' = v) :
    UpToPattern r x (t.memWrite a n v) (t'.memWrite a n v') :=
  hv ▸ h.map (f := (·.memWrite a n v)) (fun _ => rfl) fun _ => rfl

theorem writeE (h : UpToPattern r x t t') {e : EReg} {b b' : Bool} (hb : b' = b) :
    UpToPattern r x (t.writeE e b) (t'.writeE e b') :=
  hb ▸ h.map (f := (·.writeE e b)) (fun s => s.valid_writeE e b r) fun _ =>
    match e with
    | 0 | 1 | 2 | 3 => rfl

/-- A write of the register itself takes the pattern away. -/
theorem writeU (h : UpToPattern r x t t') {q : UReg} {y y' : Value} (hy : y' = y) :
    UpToPattern r x (t.writeU q y) (t'.writeU q y') := by
  subst hy
  obtain rfl | ⟨hr, rfl⟩ := h
  · exact .inl rfl
  · by_cases hq : q = r
    · subst hq
      exact .inl (by simp [State.writeU, State.withPattern])
    · have hne : r.val ≠ q.val := fun heq => hq (Fin.ext heq.symm)
      exact .inr ⟨by simp [hq, hr], by simp [State.writeU, State.withPattern, Vector.set_comm _ _ hne]⟩

theorem ite {p : Prop} {hp hp' : Decidable p} {u u' : State} (ht : UpToPattern r x t t') (hu : UpToPattern r x u u') :
    UpToPattern r x (@ite _ p hp t u) (@ite _ p hp' t' u') := by
  by_cases h : p
  · rwa [if_pos h, if_pos h]
  · rwa [if_neg h, if_neg h]

/-- RECIP tests and inverts the values of its two registers, or draws (R150, R153). -/
theorem recipEffect {ua ub : UReg} (h : UpToPattern r x t t') (ha : t'.readU ua = t.readU ua)
    (hb : t'.readU ub = t.readU ub) : UpToPattern r x (recipEffect ua ub t) (recipEffect ua ub t') := by
  have hdrawn : t'.drawn = t.drawn := by
    obtain rfl | ⟨-, rfl⟩ := h <;> rfl
  simp only [Machine.recipEffect, ha, hb]
  split_ifs
  · exact (h.writeU rfl).advance
  · exact (h.writeU hdrawn).countDraw.advance

end UpToPattern

/-! ### One instruction -/

/-- Under the same checks both retire alike: with the same fault, or with effects that differ in the pattern alone. -/
theorem State.retire_withPattern (hr : s.valid r = false) {checks : List (Bool × FaultCause)} {effect effect' : State}
    (heffect : UpToPattern r x effect effect') :
    SameUpToPattern r x (s.retire checks effect) ((s.withPattern r x).retire checks effect') := by
  obtain ⟨c, hfirst, hfault⟩ | ⟨hfirst, hcommit⟩ := s.retire_cases checks effect
  · rw [hfault, (s.withPattern r x).retire_faults effect' hfirst]
    exact UpToPattern.takeFault (.inr ⟨hr, rfl⟩) c s.fetch
  · rw [hcommit, (s.withPattern r x).retire_commits effect' hfirst]
    exact heffect

/-- With every register that it reads written, an instruction sees the same operands (R23, R24). -/
theorem exec_withPattern_of_reads {i : Instr} (hr : s.valid r = false) (hreads : ∀ q ∈ readsU i, s.valid q = true) :
    SameUpToPattern r x (exec i s) (exec i (s.withPattern r x)) := by
  have hs : UpToPattern r x s (s.withPattern r x) := .inr ⟨hr, rfl⟩
  have hsame (q : UReg) (hq : q ∈ readsU i) : (s.withPattern r x).readU q = s.readU q :=
    s.withPattern_readU_of_valid r x hr (hreads q hq)
  cases i with
  | replace ua ub pe =>
    refine State.retire_withPattern hr (hs.writeU ?_).advance
    by_cases hpe : pe = 0
    · subst hpe
      exact hsame ub (by simp [readsU])
    · exact congrArg₂ (sel _) (hsame ub (by simp [readsU, hpe])) (hsame ua (by simp [readsU, hpe]))
  | swap ua ub pe =>
    have ha := hsame ua (by simp [readsU])
    have hb := hsame ub (by simp [readsU])
    exact State.retire_withPattern hr ((hs.writeU (congrArg₂ (sel _) hb ha)).writeU (congrArg₂ (sel _) ha hb)).advance
  | add ua ub pe pd =>
    have ha := hsame ua (by simp [readsU])
    have hb := hsame ub (by simp [readsU])
    exact State.retire_withPattern hr
      ((hs.writeU (congrArg₂ (sumValue _) ha hb)).writeE (congrArg₂ (carryOut _) ha hb)).advance
  | sub ua ub pe pd =>
    have ha := hsame ua (by simp [readsU])
    have hb := hsame ub (by simp [readsU])
    exact State.retire_withPattern hr
      ((hs.writeU (congrArg₂ (differenceValue _) ha hb)).writeE (congrArg₂ (borrowOut _) ha hb)).advance
  | shl1 ua pd =>
    have ha := hsame ua (by simp [readsU])
    exact State.retire_withPattern hr ((hs.writeU (congrArg doubled ha)).writeE (congrArg topBit ha)).advance
  | shr1 ua pe =>
    have ha := hsame ua (by simp [readsU])
    exact State.retire_withPattern hr (hs.writeU (congrArg₂ (sel _) (congrArg halved ha) ha)).advance
  | recip ua ub =>
    have ha := hsame ua (by simp [readsU])
    have hb := hsame ub (by simp [readsU])
    have heffect := hs.recipEffect ha hb
    simp only [exec, execRecip, ha, hb]
    exact State.retire_withPattern hr heffect
  | cmpEq ua ub pd | cmpNe ua ub pd | cmpLt ua ub pd | cmpLe ua ub pd | cmpGt ua ub pd | cmpGe ua ub pd =>
    have ha := hsame ua (by simp [readsU])
    have hb := hsame ub (by simp [readsU])
    exact State.retire_withPattern hr (hs.writeE (congrArg₂ _ ha hb)).advance
  | par ua pd =>
    have ha := hsame ua (by simp [readsU])
    exact State.retire_withPattern hr (hs.writeE (congrArg parityBit ha)).advance
  | pand | por | pxor => exact State.retire_withPattern hr (checks := []) (hs.writeE rfl).advance
  | ldcZero | ldcOne => exact State.retire_withPattern hr (checks := []) (hs.writeU rfl).advance
  | ldbe ua slot => exact State.retire_withPattern hr (hs.writeU (s.withPattern_slotValue r x slot)).advance
  | stbe ua slot =>
    have ha := hsame ua (by simp [readsU])
    exact State.retire_withPattern hr (hs.memWrite (congrArg BitVec.toNat ha)).advance
  | halt => exact State.retire_withPattern hr (checks := []) hs.haltRun

/-- With a register that it reads unwritten, an instruction faults before it uses any (R213). -/
theorem exec_withPattern_of_unwritten {i : Instr} (hr : s.valid r = false)
    (hreads : ∃ q ∈ readsU i, s.valid q = false) : SameUpToPattern r x (exec i s) (exec i (s.withPattern r x)) := by
  obtain ⟨c, hcause, hcause'⟩ : ∃ c, ReportedCause s i c ∧ ReportedCause (s.withPattern r x) i c := by
    by_cases halias : Aliased i
    · exact ⟨_, .inl ⟨halias, rfl⟩, .inl ⟨halias, rfl⟩⟩
    · exact ⟨_, .inr (.inl ⟨halias, hreads, rfl⟩), .inr (.inl ⟨halias, hreads, rfl⟩)⟩
  rw [exec_faults hcause, exec_faults hcause']
  exact UpToPattern.takeFault (.inr ⟨hr, rfl⟩) c s.fetch

theorem exec_withPattern (i : Instr) (hr : s.valid r = false) :
    SameUpToPattern r x (exec i s) (exec i (s.withPattern r x)) := by
  by_cases hreads : ∀ q ∈ readsU i, s.valid q = true
  · exact exec_withPattern_of_reads hr hreads
  · exact exec_withPattern_of_unwritten hr (by simpa using hreads)

/-! ### One turn of the sequencer -/

theorem sequence_withPattern (hr : s.valid r = false) :
    SameUpToPattern r x (sequence s) (sequence (s.withPattern r x)) := by
  have hs : UpToPattern r x s (s.withPattern r x) := .inr ⟨hr, rfl⟩
  by_cases hrun : s.run = .running
  · by_cases hpc : s.pc < s.imemWords
    · cases hdecode : decode s.fetch with
      | ok i =>
        rw [sequence_decoded hrun hpc hdecode, sequence_decoded (s := s.withPattern r x) hrun hpc hdecode]
        exact exec_withPattern i hr
      | error e =>
        rw [sequence_illegal hrun hpc ⟨e, hdecode⟩, sequence_illegal (s := s.withPattern r x) hrun hpc ⟨e, hdecode⟩]
        exact hs.takeFault .illegal s.fetch
    · rw [Nat.not_lt] at hpc
      rw [sequence_pcRange hrun hpc, sequence_pcRange (s := s.withPattern r x) hrun hpc]
      exact hs.takeFault .pcRange 0
  · rw [sequence_stopped hrun, sequence_stopped (s := s.withPattern r x) hrun]
    exact hs

/-! ### One action of the host -/

/-- No register write or window of the host map looks at a value register; SOFT_RESET takes the pattern away (R241). -/
theorem State.hostWrite_withPattern (hr : s.valid r = false) (off : Nat) (w : Word) :
    UpToPattern r x (s.hostWrite off w) ((s.withPattern r x).hostWrite off w) := by
  have hs : UpToPattern r x s (s.withPattern r x) := .inr ⟨hr, rfl⟩
  have hctrl : UpToPattern r x (s.writeCtrl w) ((s.withPattern r x).writeCtrl w) :=
    .ite (.inl rfl) (.ite (.inr ⟨hr, rfl⟩) (.inr ⟨hr, rfl⟩))
  have hstatus : UpToPattern r x (s.writeStatus w) ((s.withPattern r x).writeStatus w) :=
    .ite (.inr ⟨hr, rfl⟩) (.ite (.inr ⟨hr, rfl⟩) hs)
  have hstartPc : UpToPattern r x (s.writeStartPc w) ((s.withPattern r x).writeStartPc w) := .ite hs (.inr ⟨hr, rfl⟩)
  have hdmem (b : Nat) : UpToPattern r x (s.writeDmemWindow b w) ((s.withPattern r x).writeDmemWindow b w) :=
    .ite hs (.ite (hs.memWrite rfl) hs)
  have himem (j : Nat) : UpToPattern r x (s.writeImemWindow j w) ((s.withPattern r x).writeImemWindow j w) :=
    .ite hs (.ite (.inr ⟨hr, rfl⟩) hs)
  exact .ite (.ite hctrl (.ite hstatus (.ite hstartPc hs))) (.ite (hdmem _) (.ite (himem _) hs))

theorem State.hostAccess_withPattern {addr size : Nat} {act act' : State} (h : UpToPattern r x act act') :
    SameUpToPattern r x (s.hostAccess addr size act) ((s.withPattern r x).hostAccess addr size act') := by
  change SameUpToPattern r x (s.hostAccess addr size act) (s.hostAccess addr size act')
  unfold State.hostAccess
  split_ifs
  exacts [rfl, h, rfl]

theorem State.hostStep_withPattern (hr : s.valid r = false) (act : HostAct) :
    SameUpToPattern r x (s.hostStep act) ((s.withPattern r x).hostStep act) := by
  cases act with
  | idle => exact .inr ⟨hr, rfl⟩
  | hardReset => exact .inl rfl
  | read addr size =>
    refine State.hostAccess_withPattern (.inr ⟨hr, ?_⟩)
    rw [State.withPattern_hostRead]
    rfl
  | write addr size w => exact State.hostAccess_withPattern (State.hostWrite_withPattern hr _ w)

/-! ### The step -/

theorem step_withPattern (hr : s.valid r = false) : SameUpToPattern r x (step s) (step (s.withPattern r x)) := by
  cases hhost : s.host with
  | nil =>
    rw [step_of_no_host hhost, step_of_no_host (s := s.withPattern r x) hhost]
    exact sequence_withPattern hr
  | cons act rest =>
    by_cases hidle : act = .idle
    · subst hidle
      rw [SequencerTurn.step_eq (.inr ⟨rest, hhost, rfl⟩),
        SequencerTurn.step_eq (s := s.withPattern r x) (.inr ⟨rest, hhost, rfl⟩)]
      exact sequence_withPattern (s := { s with host := rest }) hr
    · rw [step_of_host hhost hidle, step_of_host (s := s.withPattern r x) hhost hidle]
      exact State.hostStep_withPattern (s := { s with host := rest }) hr act

end Sys2Proof.Machine
end

section
/-! SUPPORT. The statement about unwritten registers of 10_state.md, settled. -/

namespace Sys2Proof.Machine

/-- Settles O23: a register that is read is written or faults, and the host has no way to a value register. -/
theorem unwrittenPatternIsUnobservable : Obligations.UnwrittenPatternIsUnobservable := by
  refine ⟨fun i s r x hr => ?_, fun s r x hr => step_withPattern hr⟩
  obtain ⟨t, hexec⟩ := exec_answers i s
  obtain ⟨t', hexec'⟩ := exec_answers i (s.withPattern r x)
  have hsame := exec_withPattern (x := x) i hr
  rw [hexec, hexec'] at hsame
  exact ⟨t, t', hexec, hexec', hsame⟩

end Sys2Proof.Machine
end
